-- ==== Sys2Proof/Word.lean ====
section
/-! DEFINITION. The value types of the machine: 16-bit words, bytes, register indices and the three condition flags.

Bit vectors stand only where the spec itself treats a value as bits (00_scope.md rules R8, R9). -/

namespace Sys2Proof

/-- A `u16` (R9): the content of a register or of a memory cell, and a cell address while it is computed. -/
abbrev Word := BitVec 16

/-- A `u8` (R9): one character of the keyboard or console channel. -/
abbrev Byte := BitVec 8

/-- The index of a general register, 0 to 7 (R20, R83). -/
abbrev RegIx := BitVec 3

/-- The three values of the condition register (R28): exactly one of Negative, Zero and Positive. -/
inductive Flag where
  | n
  | z
  | p
  deriving DecidableEq, Repr

end Sys2Proof
end

