-- ==== Sys2Proof/Syntax.lean ====
section
/-! DEFINITION. The instructions: one constructor per row of spec/opcode_table.json.

Every bit of an instruction word outside its fixed bits is an operand of its constructor, the bits the decoder does
not examine (R87) among them: they carry no meaning, but FAULT_INFO records the whole word (R231), and with them an
instruction is its word, no bit dropped (log 5). -/

namespace Sys2Proof

/-- The 14 operations that `OPMAP` gives an opcode value (30_encoding.md rule R84). -/
inductive Operation where
  | br | add | ld | st | jsr | and | ldr | str | not | ldi | sti | jmp | lea | trap
  deriving DecidableEq, Repr

/-- The instructions, one constructor per row of the opcode table. The rows RET, GETC to HALT and
"TRAP (undefined vector)" refine the rows JMP and TRAP: a word is read as its most specific row (log 4). -/
inductive Instr where
  /-- ADD, register form (R130). -/
  | addReg (dr sr1 : RegIx) (ign : BitVec 2) (sr2 : RegIx)
  /-- ADD, immediate form (R131). -/
  | addImm (dr sr1 : RegIx) (imm5 : BitVec 5)
  /-- AND, register form (R132). -/
  | andReg (dr sr1 : RegIx) (ign : BitVec 2) (sr2 : RegIx)
  /-- AND, immediate form (R133). -/
  | andImm (dr sr1 : RegIx) (imm5 : BitVec 5)
  /-- NOT (R134). -/
  | not (dr sr : RegIx) (ign : BitVec 6)
  /-- BR (R140); `cond` is n, z, p from the left. -/
  | br (cond : BitVec 3) (off9 : BitVec 9)
  /-- JMP (R142). -/
  | jmp (ignHi : BitVec 3) (base : RegIx) (ignLo : BitVec 6)
  /-- RET (R143): JMP with base register 7. -/
  | ret (ignHi : BitVec 3) (ignLo : BitVec 6)
  /-- JSR (R144). -/
  | jsr (off11 : BitVec 11)
  /-- JSRR (R145). -/
  | jsrr (ignHi : BitVec 2) (base : RegIx) (ignLo : BitVec 6)
  /-- LD (R150). -/
  | ld (dr : RegIx) (off9 : BitVec 9)
  /-- LDI (R151). -/
  | ldi (dr : RegIx) (off9 : BitVec 9)
  /-- LDR (R152). -/
  | ldr (dr base : RegIx) (off6 : BitVec 6)
  /-- LEA (R153). -/
  | lea (dr : RegIx) (off9 : BitVec 9)
  /-- ST (R154). -/
  | st (sr : RegIx) (off9 : BitVec 9)
  /-- STI (R155). -/
  | sti (sr : RegIx) (off9 : BitVec 9)
  /-- STR (R156). -/
  | str (sr base : RegIx) (off6 : BitVec 6)
  /-- TRAP with any vector (R170), the generic row. -/
  | trap (ign : BitVec 4) (vect8 : BitVec 8)
  /-- TRAP x20 (R174). -/
  | getc (ign : BitVec 4)
  /-- TRAP x21 (R175). -/
  | out (ign : BitVec 4)
  /-- TRAP x22 (R177). -/
  | puts (ign : BitVec 4)
  /-- TRAP x23 (R179), the service IN. -/
  | inp (ign : BitVec 4)
  /-- TRAP x24 (R180). -/
  | putsp (ign : BitVec 4)
  /-- TRAP x25 (R181). -/
  | halt (ign : BitVec 4)
  /-- TRAP with a vector outside x20 to x25 (R182). -/
  | trapUndefined (ign : BitVec 4) (vect8 : BitVec 8)
  /-- A word with opcode value 8 (R88, R233). -/
  | reserved8 (low : BitVec 12)
  /-- A word with opcode value 13 (R88, R233). -/
  | reserved13 (low : BitVec 12)
  deriving DecidableEq, Repr

end Sys2Proof
end

