-- ==== Sys2Proof/Config.lean ====
section
/-! DEFINITION. The configuration: the named parameters of 00_scope.md rule R7, and what makes their values admissible.

The values in force stand in Sys2Proof/Machine/Parameters.lean. No value of this hardware is left open by the spec,
so there is no free value here. -/

namespace Sys2Proof

/-- The named parameters of rule R7. -/
structure Config where
  /-- `PC_START`: the address of the first instruction after reset (R27, R261). -/
  pcStart : Word
  /-- `OPMAP`: the opcode value of each operation (R84). -/
  opmap : Operation → BitVec 4
  /-- `KBSR_ADDR`: the address of the keyboard status cell (R39, R60). -/
  kbsrAddr : Word
  /-- `KBDR_ADDR`: the address of the keyboard data cell (R39, R60). -/
  kbdrAddr : Word
  /-- `KB_READY`: what a successful poll writes into the status cell (R52). -/
  kbReady : Word
  /-- `CCMASK`: the mask of each flag that BR tests (R30). -/
  ccmask : Flag → BitVec 3
  /-- `IN_PROMPT`: the bytes IN emits first (R179). -/
  inPrompt : List Byte
  /-- `HALT_NOTICE`: the bytes HALT emits (R181). -/
  haltNotice : List Byte
  /-- `KBD_INPUT`: the bytes the keyboard agent will deliver and when: entry k arrives just before step k (R205; log 9). -/
  kbdInput : List (List Byte)
  /-- `UNDEF_TRAP_IS_NOP`: an undefined trap vector is a silent no-op, not a fault (R7, R234). -/
  undefTrapIsNop : Bool

/-- All 14 operations, in the order of their default opcode values. -/
def Operation.all : List Operation :=
  [.br, .add, .ld, .st, .jsr, .and, .ldr, .str, .not, .ldi, .sti, .jmp, .lea, .trap]

/-- What rule R7 asks of the parameters: `OPMAP` is injective and misses 8 and 13; the two keyboard addresses
differ; `KB_READY` has bit 15 set; `CCMASK` is a bijection onto the three one-hot masks. -/
abbrev Config.Admissible (c : Config) : Prop :=
  (∀ a ∈ Operation.all, ∀ b ∈ Operation.all, c.opmap a = c.opmap b → a = b) ∧
  (∀ a ∈ Operation.all, c.opmap a ≠ 8#4 ∧ c.opmap a ≠ 13#4) ∧
  c.kbsrAddr ≠ c.kbdrAddr ∧
  c.kbReady.msb = true ∧
  (∀ m ∈ [0b100#3, 0b010#3, 0b001#3], ∃ f ∈ [Flag.n, Flag.z, Flag.p], c.ccmask f = m) ∧
  (∀ f ∈ [Flag.n, Flag.z, Flag.p], c.ccmask f ∈ [0b100#3, 0b010#3, 0b001#3])

end Sys2Proof
end

