-- ==== Sys2Proof/Machine/Parameters.lean ====
section
/-! DEFINITION. The parameter values in force: the defaults of 00_scope.md rule R7, one definition each.

Each is marked where it comes from outside the source; the machine reads them only through `config`. -/

namespace Sys2Proof.Machine

/-- The standard LC-3 opcode numbers (R84, D1, GK1). PRESUMED, unsafe: log 2. -/
def defaultOpmap : Operation → BitVec 4
  | .br => 0#4
  | .add => 1#4
  | .ld => 2#4
  | .st => 3#4
  | .jsr => 4#4
  | .and => 5#4
  | .ldr => 6#4
  | .str => 7#4
  | .not => 9#4
  | .ldi => 10#4
  | .sti => 11#4
  | .jmp => 12#4
  | .lea => 14#4
  | .trap => 15#4

/-- Bit 11 of BR tests N, bit 10 tests Z, bit 9 tests P (R30, D3, GK3). PRESUMED, unsafe: log 6. -/
def defaultCcmask : Flag → BitVec 3
  | .n => 0b100#3
  | .z => 0b010#3
  | .p => 0b001#3

/-- "Enter a character: ", 19 bytes (R7, D11, GK5). PRESUMED, unsafe: log 8. -/
def defaultInPrompt : List Byte :=
  [0x45#8, 0x6E#8, 0x74#8, 0x65#8, 0x72#8, 0x20#8, 0x61#8, 0x20#8, 0x63#8, 0x68#8,
   0x61#8, 0x72#8, 0x61#8, 0x63#8, 0x74#8, 0x65#8, 0x72#8, 0x3A#8, 0x20#8]

/-- "HALT" and a newline, 5 bytes (R7, D11, GK5). PRESUMED, unsafe: log 8. -/
def defaultHaltNotice : List Byte := [0x48#8, 0x41#8, 0x4C#8, 0x54#8, 0x0A#8]

/-- The configuration in force: every parameter of R7 at its default. The start address is D4 (log 7), the keyboard
addresses D2 and the ready value D9 (log 3), the keyboard's input none (log 9), the undefined-vector switch off
(log 12). -/
def config : Config where
  pcStart := 0x3000#16
  opmap := defaultOpmap
  kbsrAddr := 0xFE00#16
  kbdrAddr := 0xFE02#16
  kbReady := 0x8000#16
  ccmask := defaultCcmask
  inPrompt := defaultInPrompt
  haltNotice := defaultHaltNotice
  kbdInput := []
  undefTrapIsNop := false

end Sys2Proof.Machine
end

