-- ==== Sys2Proof/WellFormed.lean ====
section
/-! DEFINITION. Which instructions are the reading of their own word.

Every operand field holds any value of its width (R83, R91), so the only question is which constructor stands for a
word when two rows of the opcode table cover it: the most specific row does (log 4). -/

namespace Sys2Proof

/-- The six vectors with a service (R89). -/
def definedVector (v : BitVec 8) : Bool :=
  v == 0x20#8 || v == 0x21#8 || v == 0x22#8 || v == 0x23#8 || v == 0x24#8 || v == 0x25#8

/-- Well-formed: the instruction is the most specific reading of its word. Three checks: a JMP does not name R7, the
generic TRAP is written as its service, and an undefined-vector TRAP has none of the six defined vectors. -/
def Instr.wellFormed : Instr → Bool
  | .jmp _ base _ => base != 7#3
  | .trap _ _ => false
  | .trapUndefined _ v => !definedVector v
  | _ => true

/-- The well-formed instructions, as a proposition. -/
abbrev Instr.WellFormed (i : Instr) : Prop := i.wellFormed = true

end Sys2Proof
end

