-- ==== Sys2Proof/Decode.lean ====
section
/-! DEFINITION. The decoder and the encoder (30_encoding.md rules R80 to R91).

Decoding is total: every one of the 65,536 words is an instruction (R91), so nothing is rejected here; the reserved
opcode values have constructors of their own, which raise their fault when executed (R88). -/

namespace Sys2Proof

/-- `v[hi:lo]` of rule R8 as the `n = hi - lo + 1` bits from `lo` up. -/
def field (w : Word) (lo n : Nat) : BitVec n := w.extractLsb' lo n

/-- The opcode value, `instr[15:12]` (R81). -/
def opcodeOf (w : Word) : BitVec 4 := field w 12 4

/-- The operation an opcode value selects through `OPMAP` (R84); none for a value the map misses. -/
def operationOf (c : BitVec 4) : Option Operation :=
  Operation.all.find? fun o => Machine.config.opmap o == c

/-- The row of a TRAP word by its vector (R170, R171): its service, or the undefined-vector row (log 4). -/
def decodeTrap (ign : BitVec 4) (v : BitVec 8) : Instr :=
  if v = 0x20#8 then .getc ign
  else if v = 0x21#8 then .out ign
  else if v = 0x22#8 then .puts ign
  else if v = 0x23#8 then .inp ign
  else if v = 0x24#8 then .putsp ign
  else if v = 0x25#8 then .halt ign
  else .trapUndefined ign v

/-- The row of a JMP word by its base register: JMP through R7 is RET (R142, R143; log 4). -/
def decodeJmp (ignHi : BitVec 3) (base : RegIx) (ignLo : BitVec 6) : Instr :=
  if base = 7#3 then .ret ignHi ignLo else .jmp ignHi base ignLo

/-- The instruction a word encodes (R91): the opcode through `OPMAP`, bit 5 for ADD and AND, bit 11 for opcode 4
(R85), then the fields of the format (R82). A value that `OPMAP` misses is 8 or 13, the reserved ones. -/
def decode (w : Word) : Instr :=
  match operationOf (opcodeOf w) with
  | some .br => .br (field w 9 3) (field w 0 9)
  | some .add =>
    if field w 5 1 = 1#1 then .addImm (field w 9 3) (field w 6 3) (field w 0 5)
    else .addReg (field w 9 3) (field w 6 3) (field w 3 2) (field w 0 3)
  | some .ld => .ld (field w 9 3) (field w 0 9)
  | some .st => .st (field w 9 3) (field w 0 9)
  | some .jsr =>
    if field w 11 1 = 1#1 then .jsr (field w 0 11)
    else .jsrr (field w 9 2) (field w 6 3) (field w 0 6)
  | some .and =>
    if field w 5 1 = 1#1 then .andImm (field w 9 3) (field w 6 3) (field w 0 5)
    else .andReg (field w 9 3) (field w 6 3) (field w 3 2) (field w 0 3)
  | some .ldr => .ldr (field w 9 3) (field w 6 3) (field w 0 6)
  | some .str => .str (field w 9 3) (field w 6 3) (field w 0 6)
  | some .not => .not (field w 9 3) (field w 6 3) (field w 0 6)
  | some .ldi => .ldi (field w 9 3) (field w 0 9)
  | some .sti => .sti (field w 9 3) (field w 0 9)
  | some .jmp => decodeJmp (field w 9 3) (field w 6 3) (field w 0 6)
  | some .lea => .lea (field w 9 3) (field w 0 9)
  | some .trap => decodeTrap (field w 8 4) (field w 0 8)
  | none => if opcodeOf w = 8#4 then .reserved8 (field w 0 12) else .reserved13 (field w 0 12)

/-- The opcode value of an operation (R84). -/
def opcode (o : Operation) : BitVec 4 := Machine.config.opmap o

/-- Format OPR (R82): register form of ADD and AND. -/
def formatOPR (c : BitVec 4) (dr sr1 : RegIx) (ign : BitVec 2) (sr2 : RegIx) : Word := c ++ dr ++ sr1 ++ 0#1 ++ ign ++ sr2

/-- Format OPI (R82): immediate form of ADD and AND. -/
def formatOPI (c : BitVec 4) (dr sr1 : RegIx) (imm5 : BitVec 5) : Word := c ++ dr ++ sr1 ++ 1#1 ++ imm5

/-- Formats NOT, BRO and JMP (R82): two 3-bit fields and a 6-bit field. -/
def formatBRO (c : BitVec 4) (r base : RegIx) (low : BitVec 6) : Word := c ++ r ++ base ++ low

/-- Formats PCR and BR (R82): a 3-bit field and a 9-bit offset. -/
def formatPCR (c : BitVec 4) (r : BitVec 3) (off9 : BitVec 9) : Word := c ++ r ++ off9

/-- Format JSR (R82). -/
def formatJSR (c : BitVec 4) (off11 : BitVec 11) : Word := c ++ 1#1 ++ off11

/-- Format JSRR (R82). -/
def formatJSRR (c : BitVec 4) (ignHi : BitVec 2) (base : RegIx) (ignLo : BitVec 6) : Word :=
  c ++ 0#1 ++ ignHi ++ base ++ ignLo

/-- Format TRAP (R82). -/
def formatTRAP (c ign : BitVec 4) (v : BitVec 8) : Word := c ++ ign ++ v

/-- Format RSV (R82). -/
def formatRSV (c : BitVec 4) (low : BitVec 12) : Word := c ++ low

/-- The word of an instruction: its fields laid out by the format of its row (R82, R84). -/
def encode : Instr → Word
  | .addReg dr sr1 ign sr2 => formatOPR (opcode .add) dr sr1 ign sr2
  | .addImm dr sr1 imm5 => formatOPI (opcode .add) dr sr1 imm5
  | .andReg dr sr1 ign sr2 => formatOPR (opcode .and) dr sr1 ign sr2
  | .andImm dr sr1 imm5 => formatOPI (opcode .and) dr sr1 imm5
  | .not dr sr ign => formatBRO (opcode .not) dr sr ign
  | .br cond off9 => formatPCR (opcode .br) cond off9
  | .jmp ignHi base ignLo => formatBRO (opcode .jmp) ignHi base ignLo
  | .ret ignHi ignLo => formatBRO (opcode .jmp) ignHi 7#3 ignLo
  | .jsr off11 => formatJSR (opcode .jsr) off11
  | .jsrr ignHi base ignLo => formatJSRR (opcode .jsr) ignHi base ignLo
  | .ld dr off9 => formatPCR (opcode .ld) dr off9
  | .ldi dr off9 => formatPCR (opcode .ldi) dr off9
  | .ldr dr base off6 => formatBRO (opcode .ldr) dr base off6
  | .lea dr off9 => formatPCR (opcode .lea) dr off9
  | .st sr off9 => formatPCR (opcode .st) sr off9
  | .sti sr off9 => formatPCR (opcode .sti) sr off9
  | .str sr base off6 => formatBRO (opcode .str) sr base off6
  | .trap ign v => formatTRAP (opcode .trap) ign v
  | .getc ign => formatTRAP (opcode .trap) ign 0x20#8
  | .out ign => formatTRAP (opcode .trap) ign 0x21#8
  | .puts ign => formatTRAP (opcode .trap) ign 0x22#8
  | .inp ign => formatTRAP (opcode .trap) ign 0x23#8
  | .putsp ign => formatTRAP (opcode .trap) ign 0x24#8
  | .halt ign => formatTRAP (opcode .trap) ign 0x25#8
  | .trapUndefined ign v => formatTRAP (opcode .trap) ign v
  | .reserved8 low => formatRSV 8#4 low
  | .reserved13 low => formatRSV 13#4 low

/-- The instruction the decoder reads from a word numbered as the opcode table numbers it: one word of 16 bits, bit 0
the least significant (R80, R81). None where `w` does not fit in `nbits` bits or the row would be longer than the one
instruction length there is. -/
def decodeTableWord (nbits w : Nat) : Option Instr :=
  if nbits ≤ 16 && w < 2 ^ nbits then some (decode (BitVec.ofNat 16 w)) else none

end Sys2Proof
end

