-- ==== Sys2Proof/Machine/State.lean ====
section
/-! DEFINITION. The machine's state as plain data, the reasons a step can stop, and the state after reset (10_state.md). -/

namespace Sys2Proof.Machine

/-- One memory cell: its address and the 16-bit word it holds. The cell, not the byte, is the unit of addressing
(R36, R57; log 1). -/
abbrev Cell := Nat × Word

/-- The memory `M` (R36): the cells that do not hold what an unlisted cell reads as, by rising address. -/
abbrev Memory := List Cell

/-- What a cell reads as that the list does not name: the reset content of every cell (R37). -/
def unlistedCell : Word := 0x0000#16

/-- `RUN` (R33). -/
inductive RunState where
  | running
  | halted
  | faulted
  deriving DecidableEq, Repr

/-- `FAULT_CAUSE` (R35, R232). -/
inductive FaultCause where
  | none
  | illegalOpcode
  | undefinedTrapVector
  deriving DecidableEq, Repr

/-- A TRAP cycle held open: what is left of it (R116, R176, R178; logs 10 and 11). -/
inductive Held where
  /-- GETC waits for a byte (R174, R176). -/
  | getc
  /-- IN has emitted its prompt and waits for a byte (R176, R179). -/
  | inPrompted
  /-- A string walk that no zero cell ends has reached address `a`: PUTSP's if `packed`, else PUTS's (R178). -/
  | walk (packed : Bool) (a : Word)
  deriving DecidableEq, Repr

/-- The whole state of the machine and of its two device channels. -/
structure State where
  /-- `R0` to `R7` (R20). -/
  regs : Vector Word 8
  /-- `PC` (R24). -/
  pc : Word
  /-- `CC` (R28). -/
  cc : Flag
  /-- `M` (R36), the keyboard cells among it (R39). -/
  mem : Memory
  /-- `RUN` (R33). -/
  run : RunState
  /-- `FAULT_CAUSE` (R35). -/
  faultCause : FaultCause
  /-- `FAULT_INFO` (R35). -/
  faultInfo : Word
  /-- `kbd_q`, head first (R205). -/
  kbdQ : List Byte
  /-- `con_out`, oldest byte first (R211). -/
  conOut : List Byte
  /-- How many bytes of `con_out` have been flushed (R210; the model's own record, log 14). -/
  conFlushed : Nat
  /-- The cycle held open, if one is (R176, R178; the model's own field, log 10). -/
  held : Option Held
  /-- The keyboard agent's arrivals still to come: the head arrives just before the next step (R205; the model's own
  field for the environment, log 9). -/
  kbdInput : List (List Byte)
  deriving DecidableEq, Repr

/-- No reason to stop with a fault: nobody raises one. Memory accesses, arithmetic and control transfers never fault
(R235), and the two faults of the spec are NEXT states in which `run` is `faulted` (R231; log 13). Safe: a fault that
cannot be raised hides no behaviour. -/
inductive Fault where
  deriving DecidableEq, Repr

/-- The reasons a step can refuse. -/
inductive Refusal where
  /-- Raised only by an arm of `exec` for an instruction that has no meaning yet; no arm of this model answers it.
  Safe: the run stops. -/
  | notModelled (mnemonic : String)
  deriving DecidableEq, Repr

/-- The machine right after reset, before any image is loaded (R42, R260): the registers and the memory zero, `PC` at
`PC_START`, `CC` Zero, `RUN` Running, no fault recorded, the console log empty; the keyboard holds what `KBD_INPUT`
gives (R263). -/
def State.reset : State where
  regs := Vector.replicate 8 0x0000#16
  pc := config.pcStart
  cc := .z
  mem := []
  run := .running
  faultCause := .none
  faultInfo := 0x0000#16
  kbdQ := []
  conOut := []
  conFlushed := 0
  held := none
  kbdInput := config.kbdInput

end Sys2Proof.Machine
end

