-- ==== Sys2Proof/Machine/Flags.lean ====
section
/-! DEFINITION. The condition register: what sets it and the mask BR tests (R28 to R31). -/

namespace Sys2Proof.Machine

/-- The flag of a value (R29): Zero if it is zero, else Negative if bit 15 is set, else Positive. -/
def flagOf (v : Word) : Flag := if v = 0#16 then .z else if v.msb then .n else .p

/-- `setcc(v)` (R29). -/
def setcc (v : Word) (s : State) : State := { s with cc := flagOf v }

/-- `ccmask(CC)` (R30), through the parameter `CCMASK`. -/
def ccmask (f : Flag) : BitVec 3 := config.ccmask f

/-- The test of BR (R140): the condition bits and the mask of the current flag share a bit. -/
def branchTaken (cond : BitVec 3) (s : State) : Bool := cond &&& ccmask s.cc != 0#3

end Sys2Proof.Machine
end

