-- ==== Sys2Proof/Machine/Memory.lean ====
section
/-! DEFINITION. Memory as a list of cells in one canonical form: reading, writing, and the form itself (R36, R50, R51). -/

namespace Sys2Proof.Machine

/-- The word at an address; an address the list does not name holds `unlistedCell`. -/
def memGet : Memory → Nat → Word
  | [], _ => unlistedCell
  | (a, v) :: m, k => if a = k then v else memGet m k

/-- The memory with one cell written, in canonical form: a cell that now holds `unlistedCell` is not listed. -/
def memSet : Memory → Nat → Word → Memory
  | [], k, v => if v = unlistedCell then [] else [(k, v)]
  | (a, w) :: m, k, v =>
    if k < a then (if v = unlistedCell then (a, w) :: m else (k, v) :: (a, w) :: m)
    else if a = k then (if v = unlistedCell then m else (k, v) :: m)
    else (a, w) :: memSet m k v

/-- The canonical form from address `lo` up: addresses strictly rise, lie below 65,536, and no entry holds
`unlistedCell`. -/
def memWfFrom : Nat → Memory → Bool
  | _, [] => true
  | lo, (a, v) :: m => lo ≤ a && a < 65536 && v != unlistedCell && memWfFrom (a + 1) m

/-- The memory is in canonical form. -/
def Memory.wf (m : Memory) : Bool := memWfFrom 0 m

end Sys2Proof.Machine
end

