-- ==== Sys2Proof/Machine/Operands.lean ====
section
/-! DEFINITION. The operand forms: sign and zero extension, bytes of a word, and the effective addresses. -/

namespace Sys2Proof.Machine

/-- `sext_N` (R10): an immediate field widened to 16 bits, its sign preserved. -/
def sext {n : Nat} (f : BitVec n) : Word := f.signExtend 16

/-- `zext_8` (R10): a byte as a word. -/
def zext8 (b : Byte) : Word := b.setWidth 16

/-- `v[7:0]`. -/
def lowByte (v : Word) : Byte := v.extractLsb' 0 8

/-- `v[15:8]`. -/
def highByte (v : Word) : Byte := v.extractLsb' 8 8

/-- A word from its high and low byte, `high * 256 + low` (R267). -/
def wordOfBytes (high low : Byte) : Word := high ++ low

/-- The register operand `R[i]` (R20). -/
def readReg (i : RegIx) (s : State) : Word := s.regs[i.toFin]

/-- The PC-relative address `PC +16 sext(off)` (R157), for off9 and off11; `PC` is the incremented value (R25). -/
def pcRelative {n : Nat} (off : BitVec n) (s : State) : Word := s.pc + sext off

/-- The base + offset address `R[BaseR] +16 sext_6(off6)` (R157). -/
def baseOffset (base : RegIx) (off6 : BitVec 6) (s : State) : Word := readReg base s + sext off6

end Sys2Proof.Machine
end

