-- ==== Sys2Proof/Machine/Ops.lean ====
section
/-! DEFINITION. The named operations over registers, memory, the device channels and the run state: the primitives of
00_scope.md rule R11, and taking a fault. There is no return from an exception on this hardware (R230, R240). -/

namespace Sys2Proof.Machine

/-- `R[i] <- v` (R20). -/
def writeReg (i : RegIx) (v : Word) (s : State) : State := { s with regs := s.regs.set i.toFin v }

/-- Writes a destination register and sets `CC` from the value written (R29, R31). -/
def writeRegCC (i : RegIx) (v : Word) (s : State) : State := setcc v (writeReg i v s)

/-- `pc <- target` (R24). -/
def setPc (target : Word) (s : State) : State := { s with pc := target }

/-- `pc <- pc0 +16 1`, wrapping at 0xFFFF (R112, R27). -/
def incrementPc (s : State) : State := setPc (s.pc + 1#16) s

/-- `R[7] <- PC`: the return address of JSR, JSRR and TRAP (R144, R145, R170). -/
def saveLink (s : State) : State := writeReg 7#3 s.pc s

/-- `M[a]` read with no side effect (R36). -/
def peek (a : Word) (s : State) : Word := memGet s.mem a.toNat

/-- `M[a] <- v` with no side effect (R36). -/
def poke (a v : Word) (s : State) : State := { s with mem := memSet s.mem a.toNat v }

/-- The keyboard queue replaced; the operations below take its head or extend its tail (R205, R207). -/
def setQueue (q : List Byte) (s : State) : State := { s with kbdQ := q }

/-- One step of the keyboard agent (R205): a byte at the tail of `kbd_q`. -/
def keyStep (b : Byte) (s : State) : State := setQueue (s.kbdQ ++ [b]) s

/-- Bytes of the keyboard agent that arrive together, the first one first (R205). -/
def keySteps (bs : List Byte) (s : State) : State := bs.foldl (fun u b => keyStep b u) s

/-- The arrivals still to come replaced (log 9). -/
def setInput (later : List (List Byte)) (s : State) : State := { s with kbdInput := later }

/-- `KbdAvail()` (R206). -/
def kbdAvail (s : State) : Bool := !s.kbdQ.isEmpty

/-- `KbdGet()` (R207): the head of `kbd_q` and the state without it; none where it would not return yet. -/
def kbdGet (s : State) : Option (Byte × State) :=
  match s.kbdQ with
  | [] => none
  | b :: q => some (b, setQueue q s)

/-- The poll a read of `KBSR_ADDR` makes (R52, R53): a pending byte goes to the data cell and the status cell becomes
ready; with none pending the status cell becomes 0 and the data cell stays. -/
def poll (s : State) : State :=
  match kbdGet s with
  | some (b, s') => poke config.kbdrAddr (zext8 b) (poke config.kbsrAddr config.kbReady s')
  | none => poke config.kbsrAddr 0x0000#16 s

/-- The state after the side effect of a read of `a` (R52): the poll for the keyboard status address, else nothing. -/
def afterRead (a : Word) (s : State) : State := if a = config.kbsrAddr then poll s else s

/-- `MemRead(a, 1)` (R52): the side effect first, then the cell. -/
def memRead (a : Word) (s : State) : Word × State := (peek a (afterRead a s), afterRead a s)

/-- `MemWrite(a, 1, v)` (R55): a plain store at every address. -/
def memWrite (a v : Word) (s : State) : State := poke a v s

/-- `ConPut` of each byte in order (R209). -/
def conPuts (bs : List Byte) (s : State) : State := { s with conOut := s.conOut ++ bs }

/-- `ConPut(b)` (R209): it always succeeds (log 16). -/
def conPut (b : Byte) (s : State) : State := conPuts [b] s

/-- `ConFlush()` (R210): everything emitted so far is recorded as flushed (log 14). -/
def conFlush (s : State) : State := { s with conFlushed := s.conOut.length }

/-- Holds the cycle open with `h` left to do (R176, R178; log 10). -/
def hold (h : Held) (s : State) : State := { s with held := some h }

/-- The held cycle goes on (R176). -/
def release (s : State) : State := { s with held := none }

/-- `RUN <- Halted` (R181). -/
def stopRunning (s : State) : State := { s with run := .halted }

/-- Taking a fault, `raise Fault(cause, info)` (R231): the cause, the instruction word and `RUN <- Faulted`, and nothing
else. -/
def raiseFault (cause : FaultCause) (info : Word) (s : State) : State :=
  { s with faultCause := cause, faultInfo := info, run := .faulted }

end Sys2Proof.Machine
end

