-- ==== Sys2Proof/Machine/Trap.lean ====
section
/-! DEFINITION. TRAP and the six services of the trap dispatcher (44_trap.md), and what is left of a service whose
cycle is held open (R176, R178). Every TRAP first writes the incremented `PC` to R7 (R170). -/

namespace Sys2Proof.Machine

/-- `R[0] <- zext_8(b)`, `setcc(R[0])`: what GETC and IN do with the byte read (R174, R179). -/
def receive (b : Byte) (s : State) : State := writeRegCC 0#3 (zext8 b) s

/-- The service GETC (R174): with no byte pending the cycle is held (R176). -/
def serviceGetc (s : State) : State :=
  match kbdGet s with
  | some (b, s') => receive b s'
  | none => hold .getc s

/-- The service OUT (R175). -/
def serviceOut (s : State) : State := conFlush (conPut (lowByte (readReg 0#3 s)) s)

/-- The bytes one non-zero cell of a string writes: PUTS the low byte (R177), PUTSP the low byte and then the high byte
if that is non-zero (R180). -/
def cellBytes (packed : Bool) (c : Word) : List Byte :=
  if packed && highByte c != 0x00#8 then [lowByte c, highByte c] else [lowByte c]

/-- The bytes of the string at `a`, up to and without its zero cell, wrapping at 0xFFFF (R177, R180); none if there is
no zero cell among the `fuel` cells from `a` on. Cells are read plainly, without the poll (R54, D10). -/
def stringBytes (packed : Bool) (m : Memory) : Nat → Word → Option (List Byte)
  | 0, _ => none
  | fuel + 1, a =>
    if memGet m a.toNat = 0x0000#16 then some []
    else (stringBytes packed m fuel (a + 1#16)).map (cellBytes packed (memGet m a.toNat) ++ ·)

/-- The services PUTS and PUTSP (R177, R180) on the string at R0. With no zero cell in all 65,536 the walk never ends
(R178): the cycle is held and `walkStep` goes on with it, for ever (log 11). -/
def serviceString (packed : Bool) (s : State) : State :=
  match stringBytes packed s.mem 65536 (readReg 0#3 s) with
  | some bs => conFlush (conPuts bs s)
  | none => hold (.walk packed (readReg 0#3 s)) s

/-- One turn of the walk's loop (R177, R180): a zero cell ends it with the flush, another is written out. -/
def walkStep (packed : Bool) (a : Word) (s : State) : State :=
  if peek a s = 0x0000#16 then conFlush s
  else hold (.walk packed (a + 1#16)) (conPuts (cellBytes packed (peek a s)) s)

/-- The rest of IN after its prompt (R179): read, echo, flush, store; held while no byte is pending (R176). -/
def inAfterPrompt (s : State) : State :=
  match kbdGet s with
  | some (b, s') => receive b (conFlush (conPut b s'))
  | none => hold .inPrompted s

/-- The service IN (R179). -/
def serviceIn (s : State) : State := inAfterPrompt (conPuts config.inPrompt s)

/-- The service HALT (R181). -/
def serviceHalt (s : State) : State := stopRunning (conFlush (conPuts config.haltNotice s))

/-- A vector with no service (R182): the fault `UndefinedTrapVector`, or nothing under the switch of R7 (log 12). -/
def serviceUndefined (instr : Word) (s : State) : State :=
  if config.undefTrapIsNop then s else raiseFault .undefinedTrapVector instr s

/-- The dispatch by vector (R170, R171): the vector is compared with the six constants, nothing is read from memory. -/
def service (v : BitVec 8) (instr : Word) (s : State) : State :=
  if v = 0x20#8 then serviceGetc s
  else if v = 0x21#8 then serviceOut s
  else if v = 0x22#8 then serviceString false s
  else if v = 0x23#8 then serviceIn s
  else if v = 0x24#8 then serviceString true s
  else if v = 0x25#8 then serviceHalt s
  else serviceUndefined instr s

/-- What a held cycle does when the machine takes its next step (R176, R178). -/
def resume (h : Held) (s : State) : State :=
  match h with
  | .getc => serviceGetc (release s)
  | .inPrompted => inAfterPrompt (release s)
  | .walk packed a => walkStep packed a (release s)

/-- TRAP with any vector (R170). -/
def execTrap (ign : BitVec 4) (v : BitVec 8) (s : State) : Host.Outcome State Fault Refusal :=
  .next (service v (encode (.trap ign v)) (saveLink s))

/-- TRAP x20, GETC (R174). -/
def execGetc (s : State) : Host.Outcome State Fault Refusal := .next (serviceGetc (saveLink s))

/-- TRAP x21, OUT (R175). -/
def execOut (s : State) : Host.Outcome State Fault Refusal := .next (serviceOut (saveLink s))

/-- TRAP x22, PUTS (R177). -/
def execPuts (s : State) : Host.Outcome State Fault Refusal := .next (serviceString false (saveLink s))

/-- TRAP x23, IN (R179). -/
def execIn (s : State) : Host.Outcome State Fault Refusal := .next (serviceIn (saveLink s))

/-- TRAP x24, PUTSP (R180). -/
def execPutsp (s : State) : Host.Outcome State Fault Refusal := .next (serviceString true (saveLink s))

/-- TRAP x25, HALT (R181). -/
def execHalt (s : State) : Host.Outcome State Fault Refusal := .next (serviceHalt (saveLink s))

/-- TRAP with an undefined vector (R182): R7 is written before the fault is raised. -/
def execTrapUndefined (ign : BitVec 4) (v : BitVec 8) (s : State) : Host.Outcome State Fault Refusal :=
  .next (serviceUndefined (encode (.trapUndefined ign v)) (saveLink s))

end Sys2Proof.Machine
end

