-- ==== Sys2Proof/Machine/Cycle.lean ====
section
/-! DEFINITION. What a step does around executing an instruction: the keyboard's arrivals, fetch and increment
(40_instruction_cycle.md rules R110 to R112), and placing a word where the next fetch reads it. -/

namespace Sys2Proof.Machine

/-- The keyboard agent's steps that the schedule puts just before this step, in any state of the machine: they are
independent of the core (R205; log 9). -/
def keyboardTurn (s : State) : State :=
  match s.kbdInput with
  | [] => s
  | bs :: later => keySteps bs (setInput later s)

/-- The fetched word, `MemRead(PC, 1)` (R111): a fetch from `KBSR_ADDR` polls (R118). -/
def fetchedWord (s : State) : Word := (memRead s.pc s).1

/-- The state after fetch and increment (R111, R112). -/
def afterFetch (s : State) : State := incrementPc (memRead s.pc s).2

/-- The word `w` placed where the next step fetches, and the machine made ready to start a cycle there: `RUN` Running
and no cycle held open. It stands for the host's image load (R265; log 15). -/
def placeWord (w : Word) (s : State) : State := { poke s.pc w s with run := .running, held := none }

end Sys2Proof.Machine
end

