-- ==== Sys2Proof/Machine/Control.lean ====
section
/-! DEFINITION. The control transfers BR, JMP, RET, JSR and JSRR (42_control.md). `PC` is already incremented (R25). -/

namespace Sys2Proof.Machine

/-- BR (R140). -/
def execBr (cond : BitVec 3) (off9 : BitVec 9) (s : State) : Host.Outcome State Fault Refusal :=
  .next (if branchTaken cond s then setPc (pcRelative off9 s) s else s)

/-- `pc <- R[BaseR]` (R142). -/
def jumpThrough (base : RegIx) (s : State) : State := setPc (readReg base s) s

/-- JMP (R142). -/
def execJmp (base : RegIx) (s : State) : Host.Outcome State Fault Refusal := .next (jumpThrough base s)

/-- RET (R143): JMP with base register 7. -/
def execRet (s : State) : Host.Outcome State Fault Refusal := .next (jumpThrough 7#3 s)

/-- JSR (R144): the return address is the incremented `PC`, and so is the base of the target. -/
def execJsr (off11 : BitVec 11) (s : State) : Host.Outcome State Fault Refusal :=
  .next (setPc (pcRelative off11 s) (saveLink s))

/-- JSRR (R145): R7 is written first, and the base register is read after that write. -/
def execJsrr (base : RegIx) (s : State) : Host.Outcome State Fault Refusal :=
  .next (jumpThrough base (saveLink s))

end Sys2Proof.Machine
end

