-- ==== Sys2Proof/Machine/LoadStore.lean ====
section
/-! DEFINITION. The loads, the stores and LEA (43_load_store.md). `PC` is already incremented (R25). -/

namespace Sys2Proof.Machine

/-- Reads the cell at `ea` through `MemRead` into `dr` and sets `CC` from it (R150 to R152). -/
def loadInto (dr : RegIx) (ea : Word) (s : State) : State := writeRegCC dr (memRead ea s).1 (memRead ea s).2

/-- LD (R150). -/
def execLd (dr : RegIx) (off9 : BitVec 9) (s : State) : Host.Outcome State Fault Refusal :=
  .next (loadInto dr (pcRelative off9 s) s)

/-- LDI (R151): the pointer is read first, then the datum in the state that read leaves. -/
def execLdi (dr : RegIx) (off9 : BitVec 9) (s : State) : Host.Outcome State Fault Refusal :=
  .next (loadInto dr (memRead (pcRelative off9 s) s).1 (memRead (pcRelative off9 s) s).2)

/-- LDR (R152): the base register is read before `dr` is written. -/
def execLdr (dr base : RegIx) (off6 : BitVec 6) (s : State) : Host.Outcome State Fault Refusal :=
  .next (loadInto dr (baseOffset base off6 s) s)

/-- LEA (R153): the address is the result, no memory access; `CC` is written. -/
def execLea (dr : RegIx) (off9 : BitVec 9) (s : State) : Host.Outcome State Fault Refusal :=
  .next (writeRegCC dr (pcRelative off9 s) s)

/-- ST (R154). -/
def execSt (sr : RegIx) (off9 : BitVec 9) (s : State) : Host.Outcome State Fault Refusal :=
  .next (memWrite (pcRelative off9 s) (readReg sr s) s)

/-- STI (R155): the pointer is read through `MemRead`, then the register is stored. -/
def execSti (sr : RegIx) (off9 : BitVec 9) (s : State) : Host.Outcome State Fault Refusal :=
  .next (memWrite (memRead (pcRelative off9 s) s).1 (readReg sr s) (memRead (pcRelative off9 s) s).2)

/-- STR (R156). -/
def execStr (sr base : RegIx) (off6 : BitVec 6) (s : State) : Host.Outcome State Fault Refusal :=
  .next (memWrite (baseOffset base off6 s) (readReg sr s) s)

end Sys2Proof.Machine
end

