-- ==== Sys2Proof/Machine/Operate.lean ====
section
/-! DEFINITION. The operate instructions ADD, AND and NOT (41_operate.md). `PC` is already incremented (R25). -/

namespace Sys2Proof.Machine

/-- ADD, register form (R130). -/
def execAddReg (dr sr1 sr2 : RegIx) (s : State) : Host.Outcome State Fault Refusal :=
  .next (writeRegCC dr (readReg sr1 s + readReg sr2 s) s)

/-- ADD, immediate form (R131). -/
def execAddImm (dr sr1 : RegIx) (imm5 : BitVec 5) (s : State) : Host.Outcome State Fault Refusal :=
  .next (writeRegCC dr (readReg sr1 s + sext imm5) s)

/-- AND, register form (R132). -/
def execAndReg (dr sr1 sr2 : RegIx) (s : State) : Host.Outcome State Fault Refusal :=
  .next (writeRegCC dr (readReg sr1 s &&& readReg sr2 s) s)

/-- AND, immediate form (R133): the immediate is sign-extended before the AND. -/
def execAndImm (dr sr1 : RegIx) (imm5 : BitVec 5) (s : State) : Host.Outcome State Fault Refusal :=
  .next (writeRegCC dr (readReg sr1 s &&& sext imm5) s)

/-- NOT (R134). -/
def execNot (dr sr : RegIx) (s : State) : Host.Outcome State Fault Refusal :=
  .next (writeRegCC dr (~~~readReg sr s) s)

end Sys2Proof.Machine
end

