-- ==== Sys2Proof/Machine/Reserved.lean ====
section
/-! DEFINITION. The two reserved opcode values (R88, R233): both raise the fault `IllegalOpcode` with the whole word. -/

namespace Sys2Proof.Machine

/-- A word with opcode value 8 (R233). -/
def execReserved8 (low : BitVec 12) (s : State) : Host.Outcome State Fault Refusal :=
  .next (raiseFault .illegalOpcode (encode (.reserved8 low)) s)

/-- A word with opcode value 13 (R233). -/
def execReserved13 (low : BitVec 12) (s : State) : Host.Outcome State Fault Refusal :=
  .next (raiseFault .illegalOpcode (encode (.reserved13 low)) s)

end Sys2Proof.Machine
end

