-- ==== Sys2Proof/Machine/Step.lean ====
section
/-! DEFINITION. One step of the machine (40_instruction_cycle.md rules R110, R120), and placing a word for it to fetch. -/

namespace Sys2Proof.Machine

/-- One instruction cycle: fetch, increment, decode, execute (R110). -/
def cycle (s : State) : Host.Outcome State Fault Refusal := exec (decode (fetchedWord s)) (afterFetch s)

/-- One step: the keyboard's arrivals, whatever the core does (R205), then the core's turn (R110): a cycle, or the next
part of a cycle that is held open. While `RUN` is not Running the core does nothing (R120; log 17). -/
def step (s : State) : Host.Outcome State Fault Refusal :=
  match s.run with
  | .running =>
    match (keyboardTurn s).held with
    | none => cycle (keyboardTurn s)
    | some h => .next (resume h (keyboardTurn s))
  | .halted => .next (keyboardTurn s)
  | .faulted => .next (keyboardTurn s)

/-- `s` with the instruction whose bits are `w` stored where `step` fetches next (log 15). -/
def State.withFetchWord (s : State) (_nbits w : Nat) : State := placeWord (BitVec.ofNat 16 w) s

end Sys2Proof.Machine
end

