-- ==== Sys2Proof/Machine/Loader.lean ====
section
/-! DEFINITION. The host's actions between steps: reset and loading images (50_interfaces.md rules R213, R214;
70_reset_and_hazards.md rules R260 to R270). The core's step never takes them (log 15). -/

namespace Sys2Proof.Machine

/-- Reset by the host (R260, R264): every piece of state to its reset value; the keyboard's queue and its arrivals still
to come are the environment's and stay (R263, D13). -/
def hostReset (s : State) : State := { State.reset with kbdQ := s.kbdQ, kbdInput := s.kbdInput }

/-- The loop of rule R267 from address `a` on: big-endian words into rising cells, until the bytes run out or `a`
passes 65,535; an odd last byte is ignored (R268). -/
def loadWords : List Byte → Nat → Memory → Memory
  | high :: low :: rest, a, m => if a ≤ 65535 then loadWords rest (a + 1) (memSet m a (wordOfBytes high low)) else m
  | _, _, m => m

/-- Loads one image (R266, R267): the first word is the origin. Fewer than two bytes load nothing (R268). -/
def loadImage (image : List Byte) (m : Memory) : Memory :=
  match image with
  | high :: low :: rest => loadWords rest (wordOfBytes high low).toNat m
  | _ => m

/-- Loads several images in the order given (R269). -/
def loadImages (images : List (List Byte)) (s : State) : State :=
  { s with mem := images.foldl (fun m image => loadImage image m) s.mem }

/-- Boot (R265): reset, load the images, and the core may start. An image that cannot be opened or read is `none`, and
then the run does not start at all (R270). -/
def boot (images : List (Option (List Byte))) (s : State) : Option State :=
  (images.mapM id).map fun loaded => loadImages loaded (hostReset s)

end Sys2Proof.Machine
end

