-- ==== Sys2Proof/Safety.lean ====
section
/-! DEFINITION. What claims about the machine are said with: what a step may change, the flag of a value in the spec's own
words, which instruction writes what, and the invariant of a running machine. -/

namespace Sys2Proof.Machine

/-- What may differ between two states. Every part not named must be the same. -/
structure Footprint where
  /-- General registers that may differ. -/
  regs : List RegIx := []
  /-- Memory cells that may differ. -/
  cells : List Word := []
  /-- `PC` may differ. -/
  pc : Bool := false
  /-- `CC` may differ. -/
  cc : Bool := false
  /-- `RUN` may differ. -/
  run : Bool := false
  /-- The fault record may differ. -/
  fault : Bool := false
  /-- The keyboard queue may differ. -/
  keyboard : Bool := false
  /-- The console log and its flush record may differ. -/
  console : Bool := false
  /-- The cycle held open may differ. -/
  held : Bool := false

/-- From `s` to `t` nothing changes outside the footprint: registers, cells, `PC`, `CC`, `RUN`, the fault record, the
keyboard queue, the console, the cycle held open; the keyboard's arrivals still to come never do. -/
def ChangesOnly (f : Footprint) (s t : State) : Prop :=
  (∀ r, r ∉ f.regs → readReg r t = readReg r s) ∧
  (∀ a, a ∉ f.cells → peek a t = peek a s) ∧
  (f.pc = false → t.pc = s.pc) ∧
  (f.cc = false → t.cc = s.cc) ∧
  (f.run = false → t.run = s.run) ∧
  (f.fault = false → t.faultCause = s.faultCause ∧ t.faultInfo = s.faultInfo) ∧
  (f.keyboard = false → t.kbdQ = s.kbdQ) ∧
  (f.console = false → t.conOut = s.conOut ∧ t.conFlushed = s.conFlushed) ∧
  (f.held = false → t.held = s.held) ∧
  t.kbdInput = s.kbdInput

/-- The flag of a value as a number (R29): Zero for 0, Negative from 32,768 up, else Positive. -/
def signFlag (v : Word) : Flag := if v.toNat = 0 then .z else if 32768 ≤ v.toNat then .n else .p

/-- The destination register holds `v` and `CC` is the flag of `v` (R29, R31). -/
def Wrote (dr : RegIx) (v : Word) (t : State) : Prop := readReg dr t = v ∧ t.cc = signFlag v

/-- Every byte of the console log has been flushed (R210). -/
def Flushed (t : State) : Prop := t.conFlushed = t.conOut.length

/-- `a` is the address of a string of `n` cells (R177): the cells `a` to `a + n - 1` (wrapping) are not zero, and the
next one is. -/
def StringAt (a : Word) (n : Nat) (s : State) : Prop :=
  n < 65536 ∧ (∀ i, i < n → peek (a + BitVec.ofNat 16 i) s ≠ 0x0000#16) ∧ peek (a + BitVec.ofNat 16 n) s = 0x0000#16

/-- The cells of the string of `n` cells at `a`, in order, wrapping at 0xFFFF. -/
def stringCells (a : Word) (n : Nat) (s : State) : List Word :=
  (List.range n).map fun i => peek (a + BitVec.ofNat 16 i) s

/-- The general registers an instruction may write (R22): its DR field, R7 for JSR, JSRR and TRAP, R0 for GETC and IN. -/
def mayWrite : Instr → List RegIx
  | .addReg dr _ _ _ => [dr]
  | .addImm dr _ _ => [dr]
  | .andReg dr _ _ _ => [dr]
  | .andImm dr _ _ => [dr]
  | .not dr _ _ => [dr]
  | .ld dr _ => [dr]
  | .ldi dr _ => [dr]
  | .ldr dr _ _ => [dr]
  | .lea dr _ => [dr]
  | .jsr _ => [7#3]
  | .jsrr _ _ _ => [7#3]
  | .getc _ => [0#3, 7#3]
  | .inp _ => [0#3, 7#3]
  | .trap _ v => if v = 0x20#8 ∨ v = 0x23#8 then [0#3, 7#3] else [7#3]
  | .out _ => [7#3]
  | .puts _ => [7#3]
  | .putsp _ => [7#3]
  | .halt _ => [7#3]
  | .trapUndefined _ _ => [7#3]
  | .br _ _ => []
  | .jmp _ _ _ => []
  | .ret _ _ => []
  | .st _ _ => []
  | .sti _ _ => []
  | .str _ _ _ => []
  | .reserved8 _ => []
  | .reserved13 _ => []

/-- The register an instruction sets `CC` from (R31): for each of the writers of `CC`, complete list. -/
def flagRegister : Instr → Option RegIx
  | .addReg dr _ _ _ => some dr
  | .addImm dr _ _ => some dr
  | .andReg dr _ _ _ => some dr
  | .andImm dr _ _ => some dr
  | .not dr _ _ => some dr
  | .ld dr _ => some dr
  | .ldi dr _ => some dr
  | .ldr dr _ _ => some dr
  | .lea dr _ => some dr
  | .getc _ => some 0#3
  | .inp _ => some 0#3
  | .trap _ v => if v = 0x20#8 ∨ v = 0x23#8 then some 0#3 else none
  | .br _ _ => none
  | .jmp _ _ _ => none
  | .ret _ _ => none
  | .jsr _ => none
  | .jsrr _ _ _ => none
  | .st _ _ => none
  | .sti _ _ => none
  | .str _ _ _ => none
  | .out _ => none
  | .puts _ => none
  | .putsp _ => none
  | .halt _ => none
  | .trapUndefined _ _ => none
  | .reserved8 _ => none
  | .reserved13 _ => none

/-- The stores (R154 to R156). -/
def isStore : Instr → Bool
  | .addReg _ _ _ _ => false
  | .addImm _ _ _ => false
  | .andReg _ _ _ _ => false
  | .andImm _ _ _ => false
  | .not _ _ _ => false
  | .br _ _ => false
  | .jmp _ _ _ => false
  | .ret _ _ => false
  | .jsr _ => false
  | .jsrr _ _ _ => false
  | .ld _ _ => false
  | .ldi _ _ => false
  | .ldr _ _ _ => false
  | .lea _ _ => false
  | .st _ _ => true
  | .sti _ _ => true
  | .str _ _ _ => true
  | .trap _ _ => false
  | .getc _ => false
  | .out _ => false
  | .puts _ => false
  | .inp _ => false
  | .putsp _ => false
  | .halt _ => false
  | .trapUndefined _ _ => false
  | .reserved8 _ => false
  | .reserved13 _ => false

/-- The loads, which read memory through `MemRead` (R150 to R152); LEA reads none (R153). -/
def isLoad : Instr → Bool
  | .addReg _ _ _ _ => false
  | .addImm _ _ _ => false
  | .andReg _ _ _ _ => false
  | .andImm _ _ _ => false
  | .not _ _ _ => false
  | .br _ _ => false
  | .jmp _ _ _ => false
  | .ret _ _ => false
  | .jsr _ => false
  | .jsrr _ _ _ => false
  | .ld _ _ => true
  | .ldi _ _ => true
  | .ldr _ _ _ => true
  | .lea _ _ => false
  | .st _ _ => false
  | .sti _ _ => false
  | .str _ _ _ => false
  | .trap _ _ => false
  | .getc _ => false
  | .out _ => false
  | .puts _ => false
  | .inp _ => false
  | .putsp _ => false
  | .halt _ => false
  | .trapUndefined _ _ => false
  | .reserved8 _ => false
  | .reserved13 _ => false

/-- The instruction with the bits the decoder does not examine set to zero (R87). -/
def stripIgnored : Instr → Instr
  | .addReg dr sr1 _ sr2 => .addReg dr sr1 0#2 sr2
  | .andReg dr sr1 _ sr2 => .andReg dr sr1 0#2 sr2
  | .not dr sr _ => .not dr sr 0#6
  | .jmp _ base _ => .jmp 0#3 base 0#6
  | .ret _ _ => .ret 0#3 0#6
  | .jsrr _ base _ => .jsrr 0#2 base 0#6
  | .trap _ v => .trap 0#4 v
  | .getc _ => .getc 0#4
  | .out _ => .out 0#4
  | .puts _ => .puts 0#4
  | .inp _ => .inp 0#4
  | .putsp _ => .putsp 0#4
  | .halt _ => .halt 0#4
  | .trapUndefined _ v => .trapUndefined 0#4 v
  | .reserved8 _ => .reserved8 0#12
  | .reserved13 _ => .reserved13 0#12
  | .addImm dr sr1 imm5 => .addImm dr sr1 imm5
  | .andImm dr sr1 imm5 => .andImm dr sr1 imm5
  | .br cond off9 => .br cond off9
  | .jsr off11 => .jsr off11
  | .ld dr off9 => .ld dr off9
  | .ldi dr off9 => .ldi dr off9
  | .ldr dr base off6 => .ldr dr base off6
  | .lea dr off9 => .lea dr off9
  | .st sr off9 => .st sr off9
  | .sti sr off9 => .sti sr off9
  | .str sr base off6 => .str sr base off6

/-- `PC` after the cycle (R26), as the rule's table gives it; `s.pc` is the incremented `PC`. -/
def pcAfter (i : Instr) (s : State) : Word :=
  match i with
  | .br cond off9 => if branchTaken cond s then s.pc + sext off9 else s.pc
  | .jmp _ base _ => readReg base s
  | .ret _ _ => readReg 7#3 s
  | .jsr off11 => s.pc + sext off11
  | .jsrr _ base _ => if base = 7#3 then s.pc else readReg base s
  | .addReg _ _ _ _ => s.pc
  | .addImm _ _ _ => s.pc
  | .andReg _ _ _ _ => s.pc
  | .andImm _ _ _ => s.pc
  | .not _ _ _ => s.pc
  | .ld _ _ => s.pc
  | .ldi _ _ => s.pc
  | .ldr _ _ _ => s.pc
  | .lea _ _ => s.pc
  | .st _ _ => s.pc
  | .sti _ _ => s.pc
  | .str _ _ _ => s.pc
  | .trap _ _ => s.pc
  | .getc _ => s.pc
  | .out _ => s.pc
  | .puts _ => s.pc
  | .inp _ => s.pc
  | .putsp _ => s.pc
  | .halt _ => s.pc
  | .trapUndefined _ _ => s.pc
  | .reserved8 _ => s.pc
  | .reserved13 _ => s.pc

/-- The invariant every step keeps. -/
structure Invariant (s : State) : Prop where
  /-- The memory is in canonical form. -/
  memory : s.mem.wf = true
  /-- No more bytes are flushed than emitted. -/
  console : s.conFlushed ≤ s.conOut.length
  /-- Outside a held IN or a held string walk, everything emitted has been flushed (R210, R215). -/
  flushed : s.held = none ∨ s.held = some .getc → s.conFlushed = s.conOut.length
  /-- The fault record is set exactly in the Faulted state (R34, R35). -/
  faulted : s.run = .faulted ↔ s.faultCause ≠ .none
  /-- With no fault recorded the information word is 0 (R35). -/
  noInfo : s.faultCause = .none → s.faultInfo = 0x0000#16
  /-- An illegal-opcode fault records a word with opcode value 8 or 13 (R232). -/
  illegalWord : s.faultCause = .illegalOpcode → opcodeOf s.faultInfo = 8#4 ∨ opcodeOf s.faultInfo = 13#4
  /-- An undefined-vector fault records a TRAP word with an undefined vector (R232). -/
  trapWord : s.faultCause = .undefinedTrapVector →
    opcodeOf s.faultInfo = opcode .trap ∧ definedVector (field s.faultInfo 0 8) = false
  /-- A cycle is held open only while the machine runs (R176). -/
  heldRuns : s.held ≠ none → s.run = .running
  /-- A string walk is held open only over a memory with no zero cell (R178). -/
  endless : ∀ packed a, s.held = some (.walk packed a) → ∀ c, peek c s ≠ 0x0000#16

end Sys2Proof.Machine
end

