-- ==== Sys2Proof/Certificates/Slice0/Obligations.lean ====
section
/-! DEFINITION. The statements for the provers. In every statement about `exec` the state's `PC` is the incremented one
(R25). Encodings are given by field position over `opcode`, the parameter `OPMAP` (log 2), but where a statement says
that it is about the default words. -/

open Sys2Proof Sys2Proof.Machine

/- Encoding. -/

/-- R82, R84, R85, R87, R91: no bit of an encoding is dropped, in either direction. The choice of the most specific row is
the model's (log 4), and so is carrying the ignored bits (log 5). -/
def Obligations.DecodeAndEncodeAgree : Prop :=
  (∀ i : Instr, i.WellFormed → decode (encode i) = i) ∧
  (∀ w : Word, (decode w).WellFormed ∧ encode (decode w) = w)

/-- R82 to R87: each pattern of the opcode table, at every value of its fields, decodes to its row's instruction with the
fields at the positions the format gives. The opcode numbers are the defaults of `OPMAP`, from general knowledge (R84, D1,
log 2). -/
def Obligations.TablePatternsDecode : Prop :=
  (∀ (d a b : RegIx) (x : BitVec 2), decode (0b0001#4 ++ d ++ a ++ 0#1 ++ x ++ b) = .addReg d a x b) ∧
  (∀ (d a : RegIx) (i : BitVec 5), decode (0b0001#4 ++ d ++ a ++ 1#1 ++ i) = .addImm d a i) ∧
  (∀ (d a b : RegIx) (x : BitVec 2), decode (0b0101#4 ++ d ++ a ++ 0#1 ++ x ++ b) = .andReg d a x b) ∧
  (∀ (d a : RegIx) (i : BitVec 5), decode (0b0101#4 ++ d ++ a ++ 1#1 ++ i) = .andImm d a i) ∧
  (∀ (d a : RegIx) (x : BitVec 6), decode (0b1001#4 ++ d ++ a ++ x) = .not d a x) ∧
  (∀ (c : BitVec 3) (o : BitVec 9), decode (0b0000#4 ++ c ++ o) = .br c o) ∧
  (∀ (h : BitVec 3) (b : RegIx) (l : BitVec 6), decode (0b1100#4 ++ h ++ b ++ l) =
    if b = 7#3 then .ret h l else .jmp h b l) ∧
  (∀ o : BitVec 11, decode (0b0100#4 ++ 1#1 ++ o) = .jsr o) ∧
  (∀ (h : BitVec 2) (b : RegIx) (l : BitVec 6), decode (0b0100#4 ++ 0#1 ++ h ++ b ++ l) = .jsrr h b l) ∧
  (∀ (d : RegIx) (o : BitVec 9), decode (0b0010#4 ++ d ++ o) = .ld d o) ∧
  (∀ (d : RegIx) (o : BitVec 9), decode (0b1010#4 ++ d ++ o) = .ldi d o) ∧
  (∀ (d b : RegIx) (o : BitVec 6), decode (0b0110#4 ++ d ++ b ++ o) = .ldr d b o) ∧
  (∀ (d : RegIx) (o : BitVec 9), decode (0b1110#4 ++ d ++ o) = .lea d o) ∧
  (∀ (r : RegIx) (o : BitVec 9), decode (0b0011#4 ++ r ++ o) = .st r o) ∧
  (∀ (r : RegIx) (o : BitVec 9), decode (0b1011#4 ++ r ++ o) = .sti r o) ∧
  (∀ (r b : RegIx) (o : BitVec 6), decode (0b0111#4 ++ r ++ b ++ o) = .str r b o) ∧
  (∀ x : BitVec 4, decode (0b1111#4 ++ x ++ 0x20#8) = .getc x ∧ decode (0b1111#4 ++ x ++ 0x21#8) = .out x ∧
    decode (0b1111#4 ++ x ++ 0x22#8) = .puts x ∧ decode (0b1111#4 ++ x ++ 0x23#8) = .inp x ∧
    decode (0b1111#4 ++ x ++ 0x24#8) = .putsp x ∧ decode (0b1111#4 ++ x ++ 0x25#8) = .halt x) ∧
  (∀ (x : BitVec 4) (v : BitVec 8), v.toNat < 0x20 ∨ 0x25 < v.toNat →
    decode (0b1111#4 ++ x ++ v) = .trapUndefined x v) ∧
  (∀ l : BitVec 12, decode (0b1000#4 ++ l) = .reserved8 l ∧ decode (0b1101#4 ++ l) = .reserved13 l)

/-- One word per family from the tables of 95_test_vectors.md decodes to the instruction it stands for there. -/
def Obligations.ExampleWordsDecode : Prop :=
  decode 0x1642#16 = .addReg 3#3 1#3 0#2 2#3 ∧ decode 0x123F#16 = .addImm 1#3 0#3 0x1F#5 ∧
  decode 0x927F#16 = .not 1#3 1#3 0x3F#6 ∧ decode 0x0BFD#16 = .br 0b101#3 0x1FD#9 ∧
  decode 0xC1C0#16 = .ret 0#3 0#6 ∧ decode 0x4802#16 = .jsr 2#11 ∧ decode 0x62BF#16 = .ldr 1#3 2#3 0x3F#6 ∧
  decode 0xB201#16 = .sti 1#3 1#9 ∧ decode 0xF025#16 = .halt 0#4 ∧ decode 0xF0FF#16 = .trapUndefined 0#4 0xFF#8 ∧
  decode 0xD000#16 = .reserved13 0#12

/-- R88, R89: which words are the reserved ones and which the undefined vectors, as numbers. The opcode number of TRAP
is the default of `OPMAP` (log 2). -/
def Obligations.FaultingWordsAreTheseRanges : Prop :=
  ∀ w : Word,
    ((∃ low, decode w = .reserved8 low) ↔ 0x8000 ≤ w.toNat ∧ w.toNat ≤ 0x8FFF) ∧
    ((∃ low, decode w = .reserved13 low) ↔ 0xD000 ≤ w.toNat ∧ w.toNat ≤ 0xDFFF) ∧
    ((∃ ign v, decode w = .trapUndefined ign v) ↔
      0xF000 ≤ w.toNat ∧ (w.toNat % 256 < 0x20 ∨ 0x25 < w.toNat % 256))

/-- The ignored bits change nothing an instruction does, but that a fault records the whole word (R231). That they have no
effect is the spec's own decision D8, stated in R87 (log 5, DESIGN CHOICE), not the source's. -/
def Obligations.IgnoredBitsHaveNoEffect : Prop :=
  ∀ (i : Instr) (s : State), ∃ t u,
    exec i s = .next t ∧ exec (stripIgnored i) s = .next u ∧
    t = { u with faultInfo := t.faultInfo } ∧
    (t.run ≠ .faulted → t = u)

/- Operands and flags. -/

/-- R10: `sext_N` for N in 5, 6, 9, 11 adds 65,536 - 2^N to a field whose top bit is 1 and leaves another unchanged;
`zext_N` is the field itself. -/
def Obligations.SignExtensionIsTwosComplement : Prop :=
  (∀ n, n = 5 ∨ n = 6 ∨ n = 9 ∨ n = 11 → ∀ f : BitVec n,
    (sext f).toNat = if f.toNat < 2 ^ (n - 1) then f.toNat else f.toNat + 65536 - 2 ^ n) ∧
  (∀ b : Byte, (zext8 b).toNat = b.toNat)

/-- R29: `setcc(v)` makes `CC` Zero for 0, else Negative when bit 15 is set, else Positive, and changes nothing else. -/
def Obligations.SetccFollowsTheSign : Prop :=
  ∀ (v : Word) (s : State),
    (setcc v s).cc = (if v = 0#16 then .z else if v.getLsbD 15 then .n else .p) ∧
    (setcc v s).cc = signFlag v ∧ ChangesOnly { cc := true } s (setcc v s)

/- Operate instructions. -/

/-- R130. -/
def Obligations.AddRegisterAddsModulo65536 : Prop :=
  ∀ (dr sr1 : RegIx) (ign : BitVec 2) (sr2 : RegIx) (s : State),
    decode (opcode .add ++ dr ++ sr1 ++ 0#1 ++ ign ++ sr2) = .addReg dr sr1 ign sr2 ∧
    ∃ t v, exec (.addReg dr sr1 ign sr2) s = .next t ∧
      v.toNat = ((readReg sr1 s).toNat + (readReg sr2 s).toNat) % 65536 ∧
      Wrote dr v t ∧ ChangesOnly { regs := [dr], cc := true } s t

/-- R131. -/
def Obligations.AddImmediateAddsModulo65536 : Prop :=
  ∀ (dr sr1 : RegIx) (imm5 : BitVec 5) (s : State),
    decode (opcode .add ++ dr ++ sr1 ++ 1#1 ++ imm5) = .addImm dr sr1 imm5 ∧
    ∃ t v, exec (.addImm dr sr1 imm5) s = .next t ∧
      v.toNat = ((readReg sr1 s).toNat + (sext imm5).toNat) % 65536 ∧
      Wrote dr v t ∧ ChangesOnly { regs := [dr], cc := true } s t

/-- R132. -/
def Obligations.AndRegisterIsBitwise : Prop :=
  ∀ (dr sr1 : RegIx) (ign : BitVec 2) (sr2 : RegIx) (s : State),
    decode (opcode .and ++ dr ++ sr1 ++ 0#1 ++ ign ++ sr2) = .andReg dr sr1 ign sr2 ∧
    ∃ t v, exec (.andReg dr sr1 ign sr2) s = .next t ∧
      (∀ k, v.getLsbD k = ((readReg sr1 s).getLsbD k && (readReg sr2 s).getLsbD k)) ∧
      Wrote dr v t ∧ ChangesOnly { regs := [dr], cc := true } s t

/-- R133. -/
def Obligations.AndImmediateIsBitwise : Prop :=
  ∀ (dr sr1 : RegIx) (imm5 : BitVec 5) (s : State),
    decode (opcode .and ++ dr ++ sr1 ++ 1#1 ++ imm5) = .andImm dr sr1 imm5 ∧
    ∃ t v, exec (.andImm dr sr1 imm5) s = .next t ∧
      (∀ k, v.getLsbD k = ((readReg sr1 s).getLsbD k && (sext imm5).getLsbD k)) ∧
      Wrote dr v t ∧ ChangesOnly { regs := [dr], cc := true } s t

/-- R134. -/
def Obligations.NotComplementsTheRegister : Prop :=
  ∀ (dr sr : RegIx) (ign : BitVec 6) (s : State),
    decode (opcode .not ++ dr ++ sr ++ ign) = .not dr sr ign ∧
    ∃ t v, exec (.not dr sr ign) s = .next t ∧ v.toNat = 65535 - (readReg sr s).toNat ∧
      Wrote dr v t ∧ ChangesOnly { regs := [dr], cc := true } s t

/- Control transfer. -/

/-- R140. -/
def Obligations.BranchAddsTheOffsetWhenAFlagMatches : Prop :=
  ∀ (cond : BitVec 3) (off9 : BitVec 9) (s : State),
    decode (opcode .br ++ cond ++ off9) = .br cond off9 ∧
    ∃ t, exec (.br cond off9) s = .next t ∧
      t.pc = (if cond &&& ccmask s.cc ≠ 0#3 then s.pc + sext off9 else s.pc) ∧ ChangesOnly { pc := true } s t

/-- R141, R30: which flags each bit of `cond` selects; 000 never branches, 111 always does. The pairing of bits with flags
is the default of `CCMASK`, from general knowledge (D3, log 6). -/
def Obligations.BranchConditionTable : Prop :=
  ∀ (cond : BitVec 3) (s : State),
    (branchTaken cond s = true ↔
      (cond.getLsbD 2 = true ∧ s.cc = .n) ∨ (cond.getLsbD 1 = true ∧ s.cc = .z) ∨ (cond.getLsbD 0 = true ∧ s.cc = .p)) ∧
    branchTaken 0b000#3 s = false ∧ branchTaken 0b111#3 s = true

/-- R142, R143: JMP jumps to its base register, and RET is JMP through R7. -/
def Obligations.JumpAndReturnGoToTheRegister : Prop :=
  (∀ (ignHi : BitVec 3) (base : RegIx) (ignLo : BitVec 6) (s : State),
    decode (opcode .jmp ++ ignHi ++ base ++ ignLo) = (if base = 7#3 then .ret ignHi ignLo else .jmp ignHi base ignLo) ∧
    ∃ t, exec (.jmp ignHi base ignLo) s = .next t ∧ t.pc = readReg base s ∧ ChangesOnly { pc := true } s t) ∧
  (∀ (ignHi : BitVec 3) (ignLo : BitVec 6) (s : State),
    ∃ t, exec (.ret ignHi ignLo) s = .next t ∧ t.pc = readReg 7#3 s ∧ ChangesOnly { pc := true } s t)

/-- R144. -/
def Obligations.JsrSavesTheReturnAddress : Prop :=
  ∀ (off11 : BitVec 11) (s : State),
    decode (opcode .jsr ++ 1#1 ++ off11) = .jsr off11 ∧
    ∃ t, exec (.jsr off11) s = .next t ∧ readReg 7#3 t = s.pc ∧ t.pc = s.pc + sext off11 ∧
      ChangesOnly { regs := [7#3], pc := true } s t

/-- R145: R7 is written before the base register is read, so JSRR R7 goes on with the next instruction. -/
def Obligations.JsrrReadsTheBaseAfterWritingR7 : Prop :=
  ∀ (ignHi : BitVec 2) (base : RegIx) (ignLo : BitVec 6) (s : State),
    decode (opcode .jsr ++ 0#1 ++ ignHi ++ base ++ ignLo) = .jsrr ignHi base ignLo ∧
    ∃ t, exec (.jsrr ignHi base ignLo) s = .next t ∧ readReg 7#3 t = s.pc ∧
      t.pc = (if base = 7#3 then s.pc else readReg base s) ∧ ChangesOnly { regs := [7#3], pc := true } s t

/- Memory, loads and stores. -/

/-- R52, R53: the poll of a read of `KBSR_ADDR`, with and without a byte pending; the value returned is the fresh one.
That the poll comes first and takes the byte off is the spec's own decision D9. R56: any other read is plain. -/
def Obligations.StatusReadPollsTheKeyboard : Prop :=
  ∀ s : State, s.mem.wf = true →
    (s.kbdQ = [] →
      (memRead config.kbsrAddr s).1 = 0x0000#16 ∧ peek config.kbsrAddr (memRead config.kbsrAddr s).2 = 0x0000#16 ∧
      ChangesOnly { cells := [config.kbsrAddr] } s (memRead config.kbsrAddr s).2) ∧
    (∀ b q, s.kbdQ = b :: q →
      (memRead config.kbsrAddr s).1 = config.kbReady ∧
      peek config.kbsrAddr (memRead config.kbsrAddr s).2 = config.kbReady ∧
      peek config.kbdrAddr (memRead config.kbsrAddr s).2 = zext8 b ∧ (memRead config.kbsrAddr s).2.kbdQ = q ∧
      ChangesOnly { cells := [config.kbsrAddr, config.kbdrAddr], keyboard := true } s (memRead config.kbsrAddr s).2) ∧
    (∀ a, a ≠ config.kbsrAddr → memRead a s = (peek a s, s))

/-- R55: a write stores at every address, the keyboard cells among them, with no side effect. -/
def Obligations.WriteStoresWithoutSideEffect : Prop :=
  ∀ (a v : Word) (s : State), s.mem.wf = true →
    peek a (memWrite a v s) = v ∧ ChangesOnly { cells := [a] } s (memWrite a v s)

/-- R150. -/
def Obligations.LdLoadsPcRelative : Prop :=
  ∀ (dr : RegIx) (off9 : BitVec 9) (s : State),
    decode (opcode .ld ++ dr ++ off9) = .ld dr off9 ∧
    ∃ t, exec (.ld dr off9) s = .next t ∧ Wrote dr (memRead (s.pc + sext off9) s).1 t ∧
      ChangesOnly { regs := [dr], cc := true } (memRead (s.pc + sext off9) s).2 t

/-- R151: the pointer is read first, then the datum, both through `MemRead`. -/
def Obligations.LdiLoadsThroughThePointer : Prop :=
  ∀ (dr : RegIx) (off9 : BitVec 9) (s : State),
    decode (opcode .ldi ++ dr ++ off9) = .ldi dr off9 ∧
    ∃ t, exec (.ldi dr off9) s = .next t ∧
      Wrote dr (memRead (memRead (s.pc + sext off9) s).1 (memRead (s.pc + sext off9) s).2).1 t ∧
      ChangesOnly { regs := [dr], cc := true }
        (memRead (memRead (s.pc + sext off9) s).1 (memRead (s.pc + sext off9) s).2).2 t

/-- R152. -/
def Obligations.LdrLoadsBasePlusOffset : Prop :=
  ∀ (dr base : RegIx) (off6 : BitVec 6) (s : State),
    decode (opcode .ldr ++ dr ++ base ++ off6) = .ldr dr base off6 ∧
    ∃ t, exec (.ldr dr base off6) s = .next t ∧ Wrote dr (memRead (readReg base s + sext off6) s).1 t ∧
      ChangesOnly { regs := [dr], cc := true } (memRead (readReg base s + sext off6) s).2 t

/-- R153: the address is the result, no cell and no keyboard byte is touched, and `CC` is written. -/
def Obligations.LeaLoadsTheAddress : Prop :=
  ∀ (dr : RegIx) (off9 : BitVec 9) (s : State),
    decode (opcode .lea ++ dr ++ off9) = .lea dr off9 ∧
    ∃ t, exec (.lea dr off9) s = .next t ∧ Wrote dr (s.pc + sext off9) t ∧
      ChangesOnly { regs := [dr], cc := true } s t

/-- R154. -/
def Obligations.StStoresPcRelative : Prop :=
  ∀ (sr : RegIx) (off9 : BitVec 9) (s : State),
    decode (opcode .st ++ sr ++ off9) = .st sr off9 ∧
    ∃ t, exec (.st sr off9) s = .next t ∧ (s.mem.wf = true → peek (s.pc + sext off9) t = readReg sr s) ∧
      ChangesOnly { cells := [s.pc + sext off9] } s t

/-- R155: the pointer is read through `MemRead`, then the register is stored. -/
def Obligations.StiStoresThroughThePointer : Prop :=
  ∀ (sr : RegIx) (off9 : BitVec 9) (s : State),
    decode (opcode .sti ++ sr ++ off9) = .sti sr off9 ∧
    ∃ t, exec (.sti sr off9) s = .next t ∧
      (s.mem.wf = true → peek (memRead (s.pc + sext off9) s).1 t = readReg sr s) ∧
      ChangesOnly { cells := [(memRead (s.pc + sext off9) s).1] } (memRead (s.pc + sext off9) s).2 t

/-- R156. -/
def Obligations.StrStoresBasePlusOffset : Prop :=
  ∀ (sr base : RegIx) (off6 : BitVec 6) (s : State),
    decode (opcode .str ++ sr ++ base ++ off6) = .str sr base off6 ∧
    ∃ t, exec (.str sr base off6) s = .next t ∧ (s.mem.wf = true → peek (readReg base s + sext off6) t = readReg sr s) ∧
      ChangesOnly { cells := [readReg base s + sext off6] } s t

/- TRAP and its services. -/

/-- R170, R171: TRAP saves the incremented `PC` in R7 and answers what the row of its vector answers. The reading of a
TRAP word by its most specific row is the model's (log 4). -/
def Obligations.TrapDispatchesByItsVector : Prop :=
  ∀ (ign : BitVec 4) (v : BitVec 8) (s : State), ∃ t,
    exec (.trap ign v) s = .next t ∧ readReg 7#3 t = s.pc ∧
    exec (if v.toNat = 0x20 then .getc ign else if v.toNat = 0x21 then .out ign else if v.toNat = 0x22 then .puts ign
      else if v.toNat = 0x23 then .inp ign else if v.toNat = 0x24 then .putsp ign else if v.toNat = 0x25 then .halt ign
      else .trapUndefined ign v) s = .next t

/-- R174: with a byte pending GETC takes it into R0, `CC` never Negative; with none it blocks, the cycle held (R176; how
the held cycle is represented is the model's, log 10). -/
def Obligations.GetcTakesTheNextByte : Prop :=
  ∀ (ign : BitVec 4) (s : State),
    decode (opcode .trap ++ ign ++ 0x20#8) = .getc ign ∧
    (∀ b q, s.kbdQ = b :: q →
      ∃ t, exec (.getc ign) s = .next t ∧ Wrote 0#3 (zext8 b) t ∧ t.cc ≠ .n ∧ readReg 7#3 t = s.pc ∧ t.kbdQ = q ∧
        ChangesOnly { regs := [0#3, 7#3], cc := true, keyboard := true } s t) ∧
    (s.kbdQ = [] →
      ∃ t, exec (.getc ign) s = .next t ∧ t.held = some .getc ∧ readReg 7#3 t = s.pc ∧
        ChangesOnly { regs := [7#3], held := true } s t)

/-- R175. -/
def Obligations.OutWritesTheLowByte : Prop :=
  ∀ (ign : BitVec 4) (s : State),
    decode (opcode .trap ++ ign ++ 0x21#8) = .out ign ∧
    ∃ t b, exec (.out ign) s = .next t ∧ b.toNat = (readReg 0#3 s).toNat % 256 ∧ t.conOut = s.conOut ++ [b] ∧
      Flushed t ∧ readReg 7#3 t = s.pc ∧ ChangesOnly { regs := [7#3], console := true } s t

/-- R177: PUTS writes the low byte of each cell of the string at R0, in order, without the zero cell, and flushes. Plain
reads, the wrap at 0xFFFF and the low byte of a wide cell are the spec's own decision D10 (log 11). -/
def Obligations.PutsWritesTheString : Prop :=
  ∀ (ign : BitVec 4) (n : Nat) (s : State), StringAt (readReg 0#3 s) n s →
    ∃ t, exec (.puts ign) s = .next t ∧
      t.conOut = s.conOut ++ (stringCells (readReg 0#3 s) n s).map (fun c => BitVec.ofNat 8 (c.toNat % 256)) ∧
      Flushed t ∧ readReg 7#3 t = s.pc ∧ ChangesOnly { regs := [7#3], console := true } s t

/-- R179: with a byte pending IN prompts, echoes, flushes and takes the byte into R0; with none it blocks after its prompt,
the cycle held and the prompt not yet flushed (R176; how the held cycle is represented is the model's, log 10). The flush
point is D12 and the echo D24. -/
def Obligations.InPromptsEchoesAndTakesTheNextByte : Prop :=
  ∀ (ign : BitVec 4) (s : State),
    decode (opcode .trap ++ ign ++ 0x23#8) = .inp ign ∧
    (∀ b q, s.kbdQ = b :: q →
      ∃ t, exec (.inp ign) s = .next t ∧ t.conOut = s.conOut ++ config.inPrompt ++ [b] ∧ Flushed t ∧
        Wrote 0#3 (zext8 b) t ∧ t.cc ≠ .n ∧ readReg 7#3 t = s.pc ∧ t.kbdQ = q ∧
        ChangesOnly { regs := [0#3, 7#3], cc := true, keyboard := true, console := true } s t) ∧
    (s.kbdQ = [] →
      ∃ t, exec (.inp ign) s = .next t ∧ t.held = some .inPrompted ∧ t.conOut = s.conOut ++ config.inPrompt ∧
        t.conFlushed = s.conFlushed ∧ readReg 7#3 t = s.pc ∧
        ChangesOnly { regs := [7#3], console := true, held := true } s t)

/-- R180: PUTSP writes the low byte of each cell of the string at R0 and then its high byte if that is not zero. Plain
reads and the wrap are D10, the zero low byte D27 (log 11). -/
def Obligations.PutspWritesThePackedString : Prop :=
  ∀ (ign : BitVec 4) (n : Nat) (s : State), StringAt (readReg 0#3 s) n s →
    ∃ t, exec (.putsp ign) s = .next t ∧
      t.conOut = s.conOut ++ (stringCells (readReg 0#3 s) n s).flatMap (fun c =>
        if c.toNat / 256 = 0 then [BitVec.ofNat 8 (c.toNat % 256)]
        else [BitVec.ofNat 8 (c.toNat % 256), BitVec.ofNat 8 (c.toNat / 256)]) ∧
      Flushed t ∧ readReg 7#3 t = s.pc ∧ ChangesOnly { regs := [7#3], console := true } s t

/-- R181: the notice, the flush, `RUN` Halted. The text of the notice is the parameter `HALT_NOTICE` (log 8). -/
def Obligations.HaltEmitsTheNoticeAndStops : Prop :=
  ∀ (ign : BitVec 4) (s : State), ∃ t,
    exec (.halt ign) s = .next t ∧ t.run = .halted ∧ t.conOut = s.conOut ++ config.haltNotice ∧ Flushed t ∧
    readReg 7#3 t = s.pc ∧ ChangesOnly { regs := [7#3], run := true, console := true } s t

/-- R182, R234: an undefined vector writes R7 and then raises `UndefinedTrapVector` with its word; nothing else changes.
Taking the fault and not the no-op is the spec's decision D7 (log 12). -/
def Obligations.UndefinedVectorFaultsAfterWritingR7 : Prop :=
  ∀ (ign : BitVec 4) (v : BitVec 8) (s : State), ∃ t,
    exec (.trapUndefined ign v) s = .next t ∧ t.run = .faulted ∧ t.faultCause = .undefinedTrapVector ∧
    t.faultInfo = opcode .trap ++ ign ++ v ∧ readReg 7#3 t = s.pc ∧
    ChangesOnly { regs := [7#3], run := true, fault := true } s t

/-- R233, R231: a reserved word raises `IllegalOpcode` with the whole word; nothing else changes, the console not either.
The state left by the fault is the spec's decision D6, the fault record D5. -/
def Obligations.ReservedOpcodeFaults : Prop :=
  ∀ (i : Instr) (s : State), (∃ low, i = .reserved8 low) ∨ (∃ low, i = .reserved13 low) →
    ∃ t, exec i s = .next t ∧ t.run = .faulted ∧ t.faultCause = .illegalOpcode ∧ t.faultInfo = encode i ∧
      ChangesOnly { run := true, fault := true } s t

/-- R176: with no byte pending GETC and IN hold the cycle: the link is saved, IN's prompt is out, nothing else has
happened; and while no byte ever arrives every later step leaves that state as it is. How the held cycle is represented is
the model's choice (log 10). -/
def Obligations.ReadersHoldWhileNothingArrives : Prop :=
  ∀ (i : Instr) (s : State), (∃ ign, i = .getc ign) ∨ (∃ ign, i = .inp ign) →
    s.run = .running → s.kbdQ = [] → s.kbdInput = [] →
    ∃ t, exec i s = .next t ∧ t.held ≠ none ∧ readReg 7#3 t = s.pc ∧
      ((∃ ign, i = .getc ign) → t.conOut = s.conOut) ∧ ((∃ ign, i = .inp ign) → t.conOut = s.conOut ++ config.inPrompt) ∧
      ChangesOnly { regs := [7#3], console := true, held := true } s t ∧ ∀ k, core.run k t = .next t

/-- R176, R174, R179: a byte that arrives lifts the hold: the next step takes it into R0, IN echoes and flushes it, and the
cycle is complete. The schedule of arrivals and the held cycle are the model's (logs 9 and 10). -/
def Obligations.ArrivalLiftsTheHold : Prop :=
  ∀ (s : State) (b : Byte) (q : List Byte), s.run = .running → (keyboardTurn s).kbdQ = b :: q →
    (s.held = some .getc →
      ∃ t, step s = .next t ∧ t.held = none ∧ Wrote 0#3 (zext8 b) t ∧ t.kbdQ = q ∧
        ChangesOnly { regs := [0#3], cc := true, keyboard := true, held := true } (keyboardTurn s) t) ∧
    (s.held = some .inPrompted →
      ∃ t, step s = .next t ∧ t.held = none ∧ Wrote 0#3 (zext8 b) t ∧ t.kbdQ = q ∧ t.conOut = s.conOut ++ [b] ∧
        Flushed t ∧
        ChangesOnly { regs := [0#3], cc := true, keyboard := true, console := true, held := true } (keyboardTurn s) t)

/-- R178: over a memory with at least one zero cell PUTS and PUTSP end, with everything flushed and no cycle held open
that was not: the string at R0 has a length below 65,536. -/
def Obligations.StringWalkEndsAtAZeroCell : Prop :=
  ∀ (i : Instr) (s : State), (∃ ign, i = .puts ign) ∨ (∃ ign, i = .putsp ign) → (∃ a, peek a s = 0x0000#16) →
    (∃ n, StringAt (readReg 0#3 s) n s) ∧ ∃ t, exec i s = .next t ∧ t.held = s.held ∧ Flushed t

/-- R178: over a memory with no zero cell the cycle of PUTS and of PUTSP never completes: it stays open for ever while
bytes go out, and `PC`, `RUN` and the memory stay as they are. The held walk is the model's representation (log 11). -/
def Obligations.EndlessStringWalkNeverCompletes : Prop :=
  ∀ (i : Instr) (s : State), (∃ ign, i = .puts ign) ∨ (∃ ign, i = .putsp ign) → s.run = .running →
    (∀ a, peek a s ≠ 0x0000#16) →
    ∃ t, exec i s = .next t ∧ ∀ k, ∃ u, core.run k t = .next u ∧ u.held ≠ none ∧ u.run = .running ∧ u.pc = s.pc ∧
      u.mem = s.mem ∧ s.conOut.length + k ≤ u.conOut.length

/-- R177, R180: the loop of the pseudocode, run one cell a step, and the service done in one step leave the same state. The
held walk is the model's representation (log 11), and the premise leaves out bytes that arrive during the walk (log 9). -/
def Obligations.WalkLoopRefinesTheStringService : Prop :=
  ∀ (packed : Bool) (n : Nat) (s : State), s.run = .running → s.kbdInput = [] → StringAt (readReg 0#3 s) n s →
    core.run (n + 1) (hold (.walk packed (readReg 0#3 s)) s) = .next (release (serviceString packed s))

/- The cycle. -/

/-- R110 to R113: a step at the start of a cycle fetches at `PC` through `MemRead`, increments `PC`, decodes and executes,
after the keyboard's turn; away from `KBSR_ADDR` the word is the cell at `PC`. The schedule of arrivals is the model's
(log 9). -/
def Obligations.StepRunsTheDecodedInstruction : Prop :=
  ∀ s : State, s.run = .running → s.held = none →
    step s = exec (decode (memRead s.pc (keyboardTurn s)).1)
      (setPc (s.pc + 1#16) (memRead s.pc (keyboardTurn s)).2) ∧
    (s.pc ≠ config.kbsrAddr → step s = exec (decode (peek s.pc s)) (setPc (s.pc + 1#16) (keyboardTurn s)))

/-- R118: a fetch from `KBSR_ADDR` polls, and the poll's answer is the instruction: the fault `IllegalOpcode` with a byte
pending, which goes to the data cell, and a never-taken branch with none. Under the default `KB_READY` and `OPMAP`
(logs 2 and 3). -/
def Obligations.FetchFromKeyboardStatusPolls : Prop :=
  ∀ s : State, s.mem.wf = true → s.run = .running → s.held = none → s.pc = config.kbsrAddr →
    ((keyboardTurn s).kbdQ = [] →
      ∃ t, step s = .next t ∧ t.pc = config.kbsrAddr + 1#16 ∧ peek config.kbsrAddr t = 0x0000#16 ∧
        ChangesOnly { cells := [config.kbsrAddr], pc := true } (keyboardTurn s) t) ∧
    (∀ b q, (keyboardTurn s).kbdQ = b :: q →
      ∃ t, step s = .next t ∧ t.run = .faulted ∧ t.faultCause = .illegalOpcode ∧ t.faultInfo = config.kbReady ∧
        t.pc = config.kbsrAddr + 1#16 ∧ peek config.kbsrAddr t = config.kbReady ∧
        peek config.kbdrAddr t = zext8 b ∧ t.kbdQ = q ∧
        ChangesOnly { cells := [config.kbsrAddr, config.kbdrAddr], pc := true, run := true, fault := true, keyboard := true }
          (keyboardTurn s) t)

/-- R120, R205: the core of a machine that is Halted or Faulted does nothing, for any number of steps, while the keyboard's
bytes still arrive in its queue. That such a machine has a step at all is the model's form (log 17), and so is the schedule
of arrivals (log 9). -/
def Obligations.StoppedMachineIsFrozen : Prop :=
  ∀ s : State, s.run = .halted ∨ s.run = .faulted → ∀ k, core.run k s =
    .next { s with kbdQ := s.kbdQ ++ (s.kbdInput.take k).flatten, kbdInput := s.kbdInput.drop k }

/-- A word placed by `withFetchWord` is what the next step runs, wherever `PC` stands but at `KBSR_ADDR`, whose cell no
placed word survives in (R118; the model's, log 15). -/
def Obligations.PlacedWordIsTheNextInstruction : Prop :=
  ∀ (s : State) (w : Nat), s.mem.wf = true → w < 65536 → s.pc ≠ config.kbsrAddr →
    ∃ i, decodeTableWord 16 w = some i ∧
      step (s.withFetchWord 16 w) = exec i (setPc (s.pc + 1#16) (keyboardTurn (s.withFetchWord 16 w)))

/- Reset and the host. -/

/-- R23, R32: after reset every general register is 0, `PC` is the start address, the machine is Running and `CC` is Zero,
which agrees with `setcc` of the zeroed registers. The value of `PC_START` is a parameter (log 7). -/
def Obligations.ResetZeroesTheRegisters : Prop :=
  (∀ r, readReg r State.reset = 0x0000#16) ∧ State.reset.pc = config.pcStart ∧ State.reset.run = .running ∧
  State.reset.cc = .z ∧ ∀ r, (setcc (readReg r State.reset) State.reset).cc = State.reset.cc

/-- R42, R260: the rest of the reset state, and that it meets the invariant. The fault record is D5, the console log D12;
the flush record, the held cycle and the arrivals are the model's own fields (logs 9, 10, 14). -/
def Obligations.ResetStateMeetsTheInvariant : Prop :=
  (∀ a, peek a State.reset = 0x0000#16) ∧ State.reset.faultCause = .none ∧ State.reset.faultInfo = 0x0000#16 ∧
  State.reset.conOut = [] ∧ State.reset.held = none ∧ State.reset.kbdQ = [] ∧
  State.reset.kbdInput = config.kbdInput ∧ Invariant State.reset

/-- R260, R263, R265, R269, R270: the host's reset brings every field back but the keyboard's queue and its arrivals to
come; boot loads the images in order into the zeroed memory, and does not start if one of them cannot be read. -/
def Obligations.BootResetsAndLoadsInOrder : Prop :=
  (∀ s : State, hostReset s = { State.reset with kbdQ := s.kbdQ, kbdInput := s.kbdInput }) ∧
  (∀ (images : List (List Byte)) (s : State),
    boot (images.map some) s = some { hostReset s with mem := images.foldl (fun m image => loadImage image m) [] }) ∧
  (∀ (images : List (Option (List Byte))) (s : State), none ∈ images → boot images s = none)

/-- R266 to R268: an image of an origin, words and at most one odd byte puts word k at cell origin + k up to the top of
memory, without wrapping, and leaves every other cell; fewer than two bytes load nothing. The corner cases are the spec's
decision D15. -/
def Obligations.LoaderPlacesTheImage : Prop :=
  (∀ (high low : Byte) (words : List (Byte × Byte)) (odd : List Byte) (m : Memory), m.wf = true → odd.length ≤ 1 →
    ∃ m', loadImage (high :: low :: (words.flatMap (fun p => [p.1, p.2]) ++ odd)) m = m' ∧ m'.wf = true ∧
      (∀ (k : Nat) (hk : k < words.length), high.toNat * 256 + low.toNat + k ≤ 65535 →
        (memGet m' (high.toNat * 256 + low.toNat + k)).toNat = words[k].1.toNat * 256 + words[k].2.toNat) ∧
      (∀ a, a < high.toNat * 256 + low.toNat ∨ high.toNat * 256 + low.toNat + words.length ≤ a ∨ 65535 < a →
        memGet m' a = memGet m a)) ∧
  (∀ (image : List Byte) (m : Memory), image.length < 2 → loadImage image m = m)

/- Rules about the whole machine. -/

/-- Every step keeps the invariant. Its clauses on the fault record are R34, R35 and R232 (D5); the others say of the model's
own choices what the rules ask: the canonical memory (log 1; R36), the record of flushes (log 14; R210), the cycles held
open, only while running (log 10; R176), and the string walks held open, only over a memory with no zero cell (log 11;
R178). -/
def Obligations.StepKeepsTheInvariant : Prop :=
  ∀ s t : State, Invariant s → step s = .next t → Invariant t

/-- The model's form of R51, R230 and R235, by which no access, sum or transfer faults: every instruction and every step has
a next state. That the two faults of the spec are next states is log 13; that a Halted or Faulted machine, which has no
step by R110 and R120, has a next state is log 17. -/
def Obligations.EveryStepHasANextState : Prop :=
  (∀ (i : Instr) (s : State), ∃ t, exec i s = .next t) ∧ ∀ s : State, ∃ t, step s = .next t

/-- R26: how each instruction leaves `PC`. -/
def Obligations.PcAfterEachInstruction : Prop :=
  ∀ (i : Instr) (s : State), ∃ t, exec i s = .next t ∧ t.pc = pcAfter i s

/-- R22: an instruction writes no general register but its destination field, R7 for JSR, JSRR and TRAP, R0 for GETC and
IN; and a cycle held open writes none but R0. -/
def Obligations.OnlyNamedRegistersAreWritten : Prop :=
  (∀ (i : Instr) (s : State), ∃ t, exec i s = .next t ∧ ∀ r, r ∉ mayWrite i → readReg r t = readReg r s) ∧
  (∀ (h : Held) (s : State) (r : RegIx), r ≠ 0#3 → readReg r (resume h s) = readReg r s)

/-- R31, R29: each of the listed writers of `CC` that completes its cycle leaves the flag of the register it has just
written; no other instruction changes `CC`; and its only reader is BR: what another instruction does is the same whatever
`CC` holds. -/
def Obligations.ConditionRegisterWritersAndReader : Prop :=
  (∀ (i : Instr) (s : State) (dr : RegIx), flagRegister i = some dr →
    ∃ t, exec i s = .next t ∧ (t.held = none → t.cc = signFlag (readReg dr t))) ∧
  (∀ (i : Instr) (s : State), flagRegister i = none → ∃ t, exec i s = .next t ∧ t.cc = s.cc) ∧
  (∀ (i : Instr) (s : State) (f : Flag), (∀ cond off9, i ≠ .br cond off9) →
    ∃ t u, exec i s = .next t ∧ exec i { s with cc := f } = .next u ∧ u = { t with cc := u.cc })

/-- R52, R55, R173: an instruction that is no load and no store leaves the memory as it is, and so does a held cycle. A load
changes memory only as the reads it makes do. A read of any address but the keyboard status address changes nothing, and a
poll changes no cell but the two keyboard cells; so no instruction but a store changes another cell. -/
def Obligations.OnlyStoresAndPollsWriteMemory : Prop :=
  (∀ (i : Instr) (s : State), isLoad i = false → isStore i = false → ∃ t, exec i s = .next t ∧ t.mem = s.mem) ∧
  (∀ (h : Held) (s : State), (resume h s).mem = s.mem) ∧
  (∀ (dr : RegIx) (off9 : BitVec 9) (s : State), ∃ t,
    exec (.ld dr off9) s = .next t ∧ t.mem = (afterRead (s.pc + sext off9) s).mem) ∧
  (∀ (dr : RegIx) (off9 : BitVec 9) (s : State), ∃ t, exec (.ldi dr off9) s = .next t ∧
    t.mem = (afterRead (memRead (s.pc + sext off9) s).1 (afterRead (s.pc + sext off9) s)).mem) ∧
  (∀ (dr base : RegIx) (off6 : BitVec 6) (s : State), ∃ t,
    exec (.ldr dr base off6) s = .next t ∧ t.mem = (afterRead (readReg base s + sext off6) s).mem) ∧
  (∀ (a : Word) (s : State), a ≠ config.kbsrAddr → afterRead a s = s) ∧
  (∀ (a c : Word) (s : State), c ≠ config.kbsrAddr → c ≠ config.kbdrAddr → peek c (afterRead a s) = peek c s) ∧
  (∀ (i : Instr) (s : State), isStore i = false → ∃ t, exec i s = .next t ∧
    ∀ a, a ≠ config.kbsrAddr → a ≠ config.kbdrAddr → peek a t = peek a s)

/-- R34: `RUN` becomes Halted only by HALT and Faulted only by a reserved opcode or an undefined vector, in a cycle of a
running machine; no step leaves Halted or Faulted (D17), where only the keyboard's bytes still arrive (R205, log 17). -/
def Obligations.RunStateTransitions : Prop :=
  ∀ s t : State, step s = .next t →
    (s.run ≠ .running → t = keyboardTurn s) ∧
    (s.run = .running → t.run = .halted → s.held = none ∧ ∃ ign, decode (fetchedWord (keyboardTurn s)) = .halt ign) ∧
    (s.run = .running → t.run = .faulted → s.held = none ∧
      ((∃ low, decode (fetchedWord (keyboardTurn s)) = .reserved8 low) ∨
       (∃ low, decode (fetchedWord (keyboardTurn s)) = .reserved13 low) ∨
       (∃ ign v, decode (fetchedWord (keyboardTurn s)) = .trapUndefined ign v)))

/-- R205, R207, R209, R211: the keyboard agent's step puts its byte at the tail of the queue and changes nothing else; the
keyboard's turn puts the next entry of the schedule there, in order, whatever the machine does; and in a step the core
takes bytes only from the head, after the arrivals, and adds bytes only at the end of the console log. The schedule is the
model's (log 9). -/
def Obligations.ChannelsAreQueues : Prop :=
  (∀ (b : Byte) (s : State), keyStep b s = { s with kbdQ := s.kbdQ ++ [b] }) ∧
  (∀ s : State, keyboardTurn s = { s with kbdQ := s.kbdQ ++ s.kbdInput.headD [], kbdInput := s.kbdInput.tail }) ∧
  (∀ s t : State, step s = .next t →
    t.kbdQ <:+ s.kbdQ ++ s.kbdInput.headD [] ∧ s.conOut <+: t.conOut ∧ t.kbdInput = s.kbdInput.tail)

/-- R211: the core never reads the console log: with earlier output put in front of it, a step does the same. -/
def Obligations.ConsoleLogIsNeverRead : Prop :=
  ∀ (s : State) (earlier : List Byte), ∃ t, step s = .next t ∧
    step { s with conOut := earlier ++ s.conOut, conFlushed := earlier.length + s.conFlushed } =
      .next { t with conOut := earlier ++ t.conOut, conFlushed := earlier.length + t.conFlushed }
end

