-- ==== Sys2Proof/Laws/Decode.lean ====
section
/-! SUPPORT. The fields of a word laid out by a format (R82), one lemma per format and field, and the word put together
again from its fields. -/

namespace Sys2Proof

/-- A field that lies in the high part of a concatenation. -/
theorem extract_append_high {v w : Nat} (x : BitVec v) (y : BitVec w) {lo : Nat} (n : Nat) (h : w ≤ lo) :
    BitVec.extractLsb' lo n (x ++ y) = BitVec.extractLsb' (lo - w) n x :=
  BitVec.extractLsb'_append_eq_of_le h

/-- A field that lies in the low part of a concatenation. -/
theorem extract_append_low {v w : Nat} (x : BitVec v) (y : BitVec w) {lo n : Nat} (h : lo + n ≤ w) :
    BitVec.extractLsb' lo n (x ++ y) = BitVec.extractLsb' lo n y :=
  BitVec.extractLsb'_append_eq_of_add_le h

@[simp] theorem formatOPR_opcode (c : BitVec 4) (dr : BitVec 3) (sr1 : BitVec 3) (ign : BitVec 2) (sr2 : BitVec 3) : opcodeOf (formatOPR c dr sr1 ign sr2) = c :=
  (extract_append_high _ _ _ (by decide)).trans ((extract_append_high _ _ _ (by decide)).trans ((extract_append_high _ _ _ (by decide)).trans ((extract_append_high _ _ _ (by decide)).trans ((extract_append_high _ _ _ (by decide)).trans (BitVec.extractLsb'_eq_self)))))

@[simp] theorem formatOPR_dr (c : BitVec 4) (dr : BitVec 3) (sr1 : BitVec 3) (ign : BitVec 2) (sr2 : BitVec 3) : field (formatOPR c dr sr1 ign sr2) 9 3 = dr :=
  (extract_append_high _ _ _ (by decide)).trans ((extract_append_high _ _ _ (by decide)).trans ((extract_append_high _ _ _ (by decide)).trans ((extract_append_high _ _ _ (by decide)).trans ((extract_append_low _ _ (by decide)).trans (BitVec.extractLsb'_eq_self)))))

@[simp] theorem formatOPR_sr1 (c : BitVec 4) (dr : BitVec 3) (sr1 : BitVec 3) (ign : BitVec 2) (sr2 : BitVec 3) : field (formatOPR c dr sr1 ign sr2) 6 3 = sr1 :=
  (extract_append_high _ _ _ (by decide)).trans ((extract_append_high _ _ _ (by decide)).trans ((extract_append_high _ _ _ (by decide)).trans ((extract_append_low _ _ (by decide)).trans (BitVec.extractLsb'_eq_self))))

@[simp] theorem formatOPR_mode (c : BitVec 4) (dr : BitVec 3) (sr1 : BitVec 3) (ign : BitVec 2) (sr2 : BitVec 3) : field (formatOPR c dr sr1 ign sr2) 5 1 = 0#1 :=
  (extract_append_high _ _ _ (by decide)).trans ((extract_append_high _ _ _ (by decide)).trans ((extract_append_low _ _ (by decide)).trans (BitVec.extractLsb'_eq_self)))

@[simp] theorem formatOPR_ign (c : BitVec 4) (dr : BitVec 3) (sr1 : BitVec 3) (ign : BitVec 2) (sr2 : BitVec 3) : field (formatOPR c dr sr1 ign sr2) 3 2 = ign :=
  (extract_append_high _ _ _ (by decide)).trans ((extract_append_low _ _ (by decide)).trans (BitVec.extractLsb'_eq_self))

@[simp] theorem formatOPR_sr2 (c : BitVec 4) (dr : BitVec 3) (sr1 : BitVec 3) (ign : BitVec 2) (sr2 : BitVec 3) : field (formatOPR c dr sr1 ign sr2) 0 3 = sr2 :=
  (extract_append_low _ _ (by decide)).trans (BitVec.extractLsb'_eq_self)

@[simp] theorem formatOPI_opcode (c : BitVec 4) (dr : BitVec 3) (sr1 : BitVec 3) (imm5 : BitVec 5) : opcodeOf (formatOPI c dr sr1 imm5) = c :=
  (extract_append_high _ _ _ (by decide)).trans ((extract_append_high _ _ _ (by decide)).trans ((extract_append_high _ _ _ (by decide)).trans ((extract_append_high _ _ _ (by decide)).trans (BitVec.extractLsb'_eq_self))))

@[simp] theorem formatOPI_dr (c : BitVec 4) (dr : BitVec 3) (sr1 : BitVec 3) (imm5 : BitVec 5) : field (formatOPI c dr sr1 imm5) 9 3 = dr :=
  (extract_append_high _ _ _ (by decide)).trans ((extract_append_high _ _ _ (by decide)).trans ((extract_append_high _ _ _ (by decide)).trans ((extract_append_low _ _ (by decide)).trans (BitVec.extractLsb'_eq_self))))

@[simp] theorem formatOPI_sr1 (c : BitVec 4) (dr : BitVec 3) (sr1 : BitVec 3) (imm5 : BitVec 5) : field (formatOPI c dr sr1 imm5) 6 3 = sr1 :=
  (extract_append_high _ _ _ (by decide)).trans ((extract_append_high _ _ _ (by decide)).trans ((extract_append_low _ _ (by decide)).trans (BitVec.extractLsb'_eq_self)))

@[simp] theorem formatOPI_mode (c : BitVec 4) (dr : BitVec 3) (sr1 : BitVec 3) (imm5 : BitVec 5) : field (formatOPI c dr sr1 imm5) 5 1 = 1#1 :=
  (extract_append_high _ _ _ (by decide)).trans ((extract_append_low _ _ (by decide)).trans (BitVec.extractLsb'_eq_self))

@[simp] theorem formatOPI_imm5 (c : BitVec 4) (dr : BitVec 3) (sr1 : BitVec 3) (imm5 : BitVec 5) : field (formatOPI c dr sr1 imm5) 0 5 = imm5 :=
  (extract_append_low _ _ (by decide)).trans (BitVec.extractLsb'_eq_self)

@[simp] theorem formatBRO_opcode (c : BitVec 4) (r : BitVec 3) (base : BitVec 3) (low : BitVec 6) : opcodeOf (formatBRO c r base low) = c :=
  (extract_append_high _ _ _ (by decide)).trans ((extract_append_high _ _ _ (by decide)).trans ((extract_append_high _ _ _ (by decide)).trans (BitVec.extractLsb'_eq_self)))

@[simp] theorem formatBRO_r (c : BitVec 4) (r : BitVec 3) (base : BitVec 3) (low : BitVec 6) : field (formatBRO c r base low) 9 3 = r :=
  (extract_append_high _ _ _ (by decide)).trans ((extract_append_high _ _ _ (by decide)).trans ((extract_append_low _ _ (by decide)).trans (BitVec.extractLsb'_eq_self)))

@[simp] theorem formatBRO_base (c : BitVec 4) (r : BitVec 3) (base : BitVec 3) (low : BitVec 6) : field (formatBRO c r base low) 6 3 = base :=
  (extract_append_high _ _ _ (by decide)).trans ((extract_append_low _ _ (by decide)).trans (BitVec.extractLsb'_eq_self))

@[simp] theorem formatBRO_low (c : BitVec 4) (r : BitVec 3) (base : BitVec 3) (low : BitVec 6) : field (formatBRO c r base low) 0 6 = low :=
  (extract_append_low _ _ (by decide)).trans (BitVec.extractLsb'_eq_self)

@[simp] theorem formatPCR_opcode (c : BitVec 4) (r : BitVec 3) (off9 : BitVec 9) : opcodeOf (formatPCR c r off9) = c :=
  (extract_append_high _ _ _ (by decide)).trans ((extract_append_high _ _ _ (by decide)).trans (BitVec.extractLsb'_eq_self))

@[simp] theorem formatPCR_r (c : BitVec 4) (r : BitVec 3) (off9 : BitVec 9) : field (formatPCR c r off9) 9 3 = r :=
  (extract_append_high _ _ _ (by decide)).trans ((extract_append_low _ _ (by decide)).trans (BitVec.extractLsb'_eq_self))

@[simp] theorem formatPCR_off9 (c : BitVec 4) (r : BitVec 3) (off9 : BitVec 9) : field (formatPCR c r off9) 0 9 = off9 :=
  (extract_append_low _ _ (by decide)).trans (BitVec.extractLsb'_eq_self)

@[simp] theorem formatJSR_opcode (c : BitVec 4) (off11 : BitVec 11) : opcodeOf (formatJSR c off11) = c :=
  (extract_append_high _ _ _ (by decide)).trans ((extract_append_high _ _ _ (by decide)).trans (BitVec.extractLsb'_eq_self))

@[simp] theorem formatJSR_mode (c : BitVec 4) (off11 : BitVec 11) : field (formatJSR c off11) 11 1 = 1#1 :=
  (extract_append_high _ _ _ (by decide)).trans ((extract_append_low _ _ (by decide)).trans (BitVec.extractLsb'_eq_self))

@[simp] theorem formatJSR_off11 (c : BitVec 4) (off11 : BitVec 11) : field (formatJSR c off11) 0 11 = off11 :=
  (extract_append_low _ _ (by decide)).trans (BitVec.extractLsb'_eq_self)

@[simp] theorem formatJSRR_opcode (c : BitVec 4) (ignHi : BitVec 2) (base : BitVec 3) (ignLo : BitVec 6) : opcodeOf (formatJSRR c ignHi base ignLo) = c :=
  (extract_append_high _ _ _ (by decide)).trans ((extract_append_high _ _ _ (by decide)).trans ((extract_append_high _ _ _ (by decide)).trans ((extract_append_high _ _ _ (by decide)).trans (BitVec.extractLsb'_eq_self))))

@[simp] theorem formatJSRR_mode (c : BitVec 4) (ignHi : BitVec 2) (base : BitVec 3) (ignLo : BitVec 6) : field (formatJSRR c ignHi base ignLo) 11 1 = 0#1 :=
  (extract_append_high _ _ _ (by decide)).trans ((extract_append_high _ _ _ (by decide)).trans ((extract_append_high _ _ _ (by decide)).trans ((extract_append_low _ _ (by decide)).trans (BitVec.extractLsb'_eq_self))))

@[simp] theorem formatJSRR_ignHi (c : BitVec 4) (ignHi : BitVec 2) (base : BitVec 3) (ignLo : BitVec 6) : field (formatJSRR c ignHi base ignLo) 9 2 = ignHi :=
  (extract_append_high _ _ _ (by decide)).trans ((extract_append_high _ _ _ (by decide)).trans ((extract_append_low _ _ (by decide)).trans (BitVec.extractLsb'_eq_self)))

@[simp] theorem formatJSRR_base (c : BitVec 4) (ignHi : BitVec 2) (base : BitVec 3) (ignLo : BitVec 6) : field (formatJSRR c ignHi base ignLo) 6 3 = base :=
  (extract_append_high _ _ _ (by decide)).trans ((extract_append_low _ _ (by decide)).trans (BitVec.extractLsb'_eq_self))

@[simp] theorem formatJSRR_ignLo (c : BitVec 4) (ignHi : BitVec 2) (base : BitVec 3) (ignLo : BitVec 6) : field (formatJSRR c ignHi base ignLo) 0 6 = ignLo :=
  (extract_append_low _ _ (by decide)).trans (BitVec.extractLsb'_eq_self)

@[simp] theorem formatTRAP_opcode (c : BitVec 4) (ign : BitVec 4) (v : BitVec 8) : opcodeOf (formatTRAP c ign v) = c :=
  (extract_append_high _ _ _ (by decide)).trans ((extract_append_high _ _ _ (by decide)).trans (BitVec.extractLsb'_eq_self))

@[simp] theorem formatTRAP_ign (c : BitVec 4) (ign : BitVec 4) (v : BitVec 8) : field (formatTRAP c ign v) 8 4 = ign :=
  (extract_append_high _ _ _ (by decide)).trans ((extract_append_low _ _ (by decide)).trans (BitVec.extractLsb'_eq_self))

@[simp] theorem formatTRAP_v (c : BitVec 4) (ign : BitVec 4) (v : BitVec 8) : field (formatTRAP c ign v) 0 8 = v :=
  (extract_append_low _ _ (by decide)).trans (BitVec.extractLsb'_eq_self)

@[simp] theorem formatRSV_opcode (c : BitVec 4) (low : BitVec 12) : opcodeOf (formatRSV c low) = c :=
  (extract_append_high _ _ _ (by decide)).trans (BitVec.extractLsb'_eq_self)

@[simp] theorem formatRSV_low (c : BitVec 4) (low : BitVec 12) : field (formatRSV c low) 0 12 = low :=
  (extract_append_low _ _ (by decide)).trans (BitVec.extractLsb'_eq_self)

/-- `OPMAP` read backwards: the opcode value of an operation selects it, and 8 and 13 select none (R84, R88). -/
@[simp] theorem operationOf_opcode (o : Operation) : operationOf (opcode o) = some o := by cases o <;> rfl
@[simp] theorem operationOf_8 : operationOf 8#4 = none := rfl
@[simp] theorem operationOf_13 : operationOf 13#4 = none := rfl

/-- Two neighbouring fields of a word, concatenated, are one field. -/
theorem extract_join {k : Nat} (w : BitVec k) (lo n m : Nat) :
    BitVec.extractLsb' (lo + n) m w ++ BitVec.extractLsb' lo n w =
      BitVec.cast (Nat.add_comm n m) (BitVec.extractLsb' lo (n + m) w) := by
  apply BitVec.eq_of_getLsbD_eq
  intro i hi
  simp only [BitVec.getLsbD_append, BitVec.getLsbD_extractLsb', BitVec.getLsbD_cast]
  by_cases h : i < n
  · simp [h, show i < n + m by omega]
  · simp [h, show i - n < m by omega, show i < n + m by omega, show lo + n + (i - n) = lo + i by omega]

/-- A word of format OPR is its fields put together. -/
theorem formatOPR_fields (w : Word) (h : field w 5 1 = 0#1) : formatOPR (opcodeOf w) (field w 9 3) (field w 6 3) (field w 3 2) (field w 0 3) = w :=
  (congrArg (fun b => opcodeOf w ++ field w 9 3 ++ field w 6 3 ++ b ++ field w 3 2 ++ field w 0 3) h.symm).trans ((congrArg (fun x : BitVec 7 => x ++ field w 6 3 ++ field w 5 1 ++ field w 3 2 ++ field w 0 3) (extract_join w 9 3 4)).trans ((congrArg (fun x : BitVec 10 => x ++ field w 5 1 ++ field w 3 2 ++ field w 0 3) (extract_join w 6 3 7)).trans ((congrArg (fun x : BitVec 11 => x ++ field w 3 2 ++ field w 0 3) (extract_join w 5 1 10)).trans ((congrArg (fun x : BitVec 13 => x ++ field w 0 3) (extract_join w 3 2 11)).trans ((extract_join w 0 3 13).trans (BitVec.extractLsb'_eq_self))))))

/-- A word of format OPI is its fields put together. -/
theorem formatOPI_fields (w : Word) (h : field w 5 1 = 1#1) : formatOPI (opcodeOf w) (field w 9 3) (field w 6 3) (field w 0 5) = w :=
  (congrArg (fun b => opcodeOf w ++ field w 9 3 ++ field w 6 3 ++ b ++ field w 0 5) h.symm).trans ((congrArg (fun x : BitVec 7 => x ++ field w 6 3 ++ field w 5 1 ++ field w 0 5) (extract_join w 9 3 4)).trans ((congrArg (fun x : BitVec 10 => x ++ field w 5 1 ++ field w 0 5) (extract_join w 6 3 7)).trans ((congrArg (fun x : BitVec 11 => x ++ field w 0 5) (extract_join w 5 1 10)).trans ((extract_join w 0 5 11).trans (BitVec.extractLsb'_eq_self)))))

/-- A word of format BRO is its fields put together. -/
theorem formatBRO_fields (w : Word) : formatBRO (opcodeOf w) (field w 9 3) (field w 6 3) (field w 0 6) = w :=
  (congrArg (fun x : BitVec 7 => x ++ field w 6 3 ++ field w 0 6) (extract_join w 9 3 4)).trans ((congrArg (fun x : BitVec 10 => x ++ field w 0 6) (extract_join w 6 3 7)).trans ((extract_join w 0 6 10).trans (BitVec.extractLsb'_eq_self)))

/-- A word of format PCR is its fields put together. -/
theorem formatPCR_fields (w : Word) : formatPCR (opcodeOf w) (field w 9 3) (field w 0 9) = w :=
  (congrArg (fun x : BitVec 7 => x ++ field w 0 9) (extract_join w 9 3 4)).trans ((extract_join w 0 9 7).trans (BitVec.extractLsb'_eq_self))

/-- A word of format JSR is its fields put together. -/
theorem formatJSR_fields (w : Word) (h : field w 11 1 = 1#1) : formatJSR (opcodeOf w) (field w 0 11) = w :=
  (congrArg (fun b => opcodeOf w ++ b ++ field w 0 11) h.symm).trans ((congrArg (fun x : BitVec 5 => x ++ field w 0 11) (extract_join w 11 1 4)).trans ((extract_join w 0 11 5).trans (BitVec.extractLsb'_eq_self)))

/-- A word of format JSRR is its fields put together. -/
theorem formatJSRR_fields (w : Word) (h : field w 11 1 = 0#1) : formatJSRR (opcodeOf w) (field w 9 2) (field w 6 3) (field w 0 6) = w :=
  (congrArg (fun b => opcodeOf w ++ b ++ field w 9 2 ++ field w 6 3 ++ field w 0 6) h.symm).trans ((congrArg (fun x : BitVec 5 => x ++ field w 9 2 ++ field w 6 3 ++ field w 0 6) (extract_join w 11 1 4)).trans ((congrArg (fun x : BitVec 7 => x ++ field w 6 3 ++ field w 0 6) (extract_join w 9 2 5)).trans ((congrArg (fun x : BitVec 10 => x ++ field w 0 6) (extract_join w 6 3 7)).trans ((extract_join w 0 6 10).trans (BitVec.extractLsb'_eq_self)))))

/-- A word of format TRAP is its fields put together. -/
theorem formatTRAP_fields (w : Word) : formatTRAP (opcodeOf w) (field w 8 4) (field w 0 8) = w :=
  (congrArg (fun x : BitVec 8 => x ++ field w 0 8) (extract_join w 8 4 4)).trans ((extract_join w 0 8 8).trans (BitVec.extractLsb'_eq_self))

/-- A word of format RSV is its fields put together. -/
theorem formatRSV_fields (w : Word) : formatRSV (opcodeOf w) (field w 0 12) = w :=
  (extract_join w 0 12 4).trans (BitVec.extractLsb'_eq_self)

end Sys2Proof
end

