-- ==== Sys2Proof/Laws/State.lean ====
section
/-! SUPPORT. One lemma per field per update of the state, so that no later proof unfolds a record update. -/

namespace Sys2Proof.Machine

/-- A register read after a register write (R20): the value written, or another register untouched. -/
@[simp] theorem readReg_writeReg (r i : RegIx) (v : Word) (s : State) :
    readReg r (writeReg i v s) = if i = r then v else readReg r s := by
  simp only [readReg, writeReg, Fin.getElem_fin, Vector.getElem_set, BitVec.val_toFin, BitVec.toNat_inj]

/-- The composite updates as the primitive ones they are made of. -/
@[simp] theorem writeRegCC_eq (i : RegIx) (v : Word) (s : State) : writeRegCC i v s = setcc v (writeReg i v s) := rfl
@[simp] theorem saveLink_eq (s : State) : saveLink s = writeReg 7#3 s.pc s := rfl
@[simp] theorem incrementPc_eq (s : State) : incrementPc s = setPc (s.pc + 1#16) s := rfl
@[simp] theorem conPut_eq (b : Byte) (s : State) : conPut b s = conPuts [b] s := rfl
@[simp] theorem keyStep_eq (b : Byte) (s : State) : keyStep b s = setQueue (s.kbdQ ++ [b]) s := rfl
@[simp] theorem memWrite_eq (a v : Word) (s : State) : memWrite a v s = poke a v s := rfl

@[simp] theorem peek_writeReg (addr : Word) (i : RegIx) (v : Word) (s : State) : peek addr (writeReg i v s) = peek addr s := rfl
@[simp] theorem writeReg_pc (i : RegIx) (v : Word) (s : State) : (writeReg i v s).pc = s.pc := rfl
@[simp] theorem writeReg_cc (i : RegIx) (v : Word) (s : State) : (writeReg i v s).cc = s.cc := rfl
@[simp] theorem writeReg_mem (i : RegIx) (v : Word) (s : State) : (writeReg i v s).mem = s.mem := rfl
@[simp] theorem writeReg_run (i : RegIx) (v : Word) (s : State) : (writeReg i v s).run = s.run := rfl
@[simp] theorem writeReg_faultCause (i : RegIx) (v : Word) (s : State) : (writeReg i v s).faultCause = s.faultCause := rfl
@[simp] theorem writeReg_faultInfo (i : RegIx) (v : Word) (s : State) : (writeReg i v s).faultInfo = s.faultInfo := rfl
@[simp] theorem writeReg_kbdQ (i : RegIx) (v : Word) (s : State) : (writeReg i v s).kbdQ = s.kbdQ := rfl
@[simp] theorem writeReg_conOut (i : RegIx) (v : Word) (s : State) : (writeReg i v s).conOut = s.conOut := rfl
@[simp] theorem writeReg_conFlushed (i : RegIx) (v : Word) (s : State) : (writeReg i v s).conFlushed = s.conFlushed := rfl
@[simp] theorem writeReg_held (i : RegIx) (v : Word) (s : State) : (writeReg i v s).held = s.held := rfl
@[simp] theorem writeReg_kbdInput (i : RegIx) (v : Word) (s : State) : (writeReg i v s).kbdInput = s.kbdInput := rfl

@[simp] theorem readReg_setPc (r : RegIx) (v : Word) (s : State) : readReg r (setPc v s) = readReg r s := rfl
@[simp] theorem peek_setPc (addr : Word) (v : Word) (s : State) : peek addr (setPc v s) = peek addr s := rfl
@[simp] theorem setPc_pc (v : Word) (s : State) : (setPc v s).pc = v := rfl
@[simp] theorem setPc_cc (v : Word) (s : State) : (setPc v s).cc = s.cc := rfl
@[simp] theorem setPc_mem (v : Word) (s : State) : (setPc v s).mem = s.mem := rfl
@[simp] theorem setPc_run (v : Word) (s : State) : (setPc v s).run = s.run := rfl
@[simp] theorem setPc_faultCause (v : Word) (s : State) : (setPc v s).faultCause = s.faultCause := rfl
@[simp] theorem setPc_faultInfo (v : Word) (s : State) : (setPc v s).faultInfo = s.faultInfo := rfl
@[simp] theorem setPc_kbdQ (v : Word) (s : State) : (setPc v s).kbdQ = s.kbdQ := rfl
@[simp] theorem setPc_conOut (v : Word) (s : State) : (setPc v s).conOut = s.conOut := rfl
@[simp] theorem setPc_conFlushed (v : Word) (s : State) : (setPc v s).conFlushed = s.conFlushed := rfl
@[simp] theorem setPc_held (v : Word) (s : State) : (setPc v s).held = s.held := rfl
@[simp] theorem setPc_kbdInput (v : Word) (s : State) : (setPc v s).kbdInput = s.kbdInput := rfl

@[simp] theorem readReg_setcc (r : RegIx) (v : Word) (s : State) : readReg r (setcc v s) = readReg r s := rfl
@[simp] theorem peek_setcc (addr : Word) (v : Word) (s : State) : peek addr (setcc v s) = peek addr s := rfl
@[simp] theorem setcc_pc (v : Word) (s : State) : (setcc v s).pc = s.pc := rfl
@[simp] theorem setcc_cc (v : Word) (s : State) : (setcc v s).cc = flagOf v := rfl
@[simp] theorem setcc_mem (v : Word) (s : State) : (setcc v s).mem = s.mem := rfl
@[simp] theorem setcc_run (v : Word) (s : State) : (setcc v s).run = s.run := rfl
@[simp] theorem setcc_faultCause (v : Word) (s : State) : (setcc v s).faultCause = s.faultCause := rfl
@[simp] theorem setcc_faultInfo (v : Word) (s : State) : (setcc v s).faultInfo = s.faultInfo := rfl
@[simp] theorem setcc_kbdQ (v : Word) (s : State) : (setcc v s).kbdQ = s.kbdQ := rfl
@[simp] theorem setcc_conOut (v : Word) (s : State) : (setcc v s).conOut = s.conOut := rfl
@[simp] theorem setcc_conFlushed (v : Word) (s : State) : (setcc v s).conFlushed = s.conFlushed := rfl
@[simp] theorem setcc_held (v : Word) (s : State) : (setcc v s).held = s.held := rfl
@[simp] theorem setcc_kbdInput (v : Word) (s : State) : (setcc v s).kbdInput = s.kbdInput := rfl

@[simp] theorem readReg_poke (r : RegIx) (a v : Word) (s : State) : readReg r (poke a v s) = readReg r s := rfl
@[simp] theorem poke_pc (a v : Word) (s : State) : (poke a v s).pc = s.pc := rfl
@[simp] theorem poke_cc (a v : Word) (s : State) : (poke a v s).cc = s.cc := rfl
@[simp] theorem poke_mem (a v : Word) (s : State) : (poke a v s).mem = memSet s.mem a.toNat v := rfl
@[simp] theorem poke_run (a v : Word) (s : State) : (poke a v s).run = s.run := rfl
@[simp] theorem poke_faultCause (a v : Word) (s : State) : (poke a v s).faultCause = s.faultCause := rfl
@[simp] theorem poke_faultInfo (a v : Word) (s : State) : (poke a v s).faultInfo = s.faultInfo := rfl
@[simp] theorem poke_kbdQ (a v : Word) (s : State) : (poke a v s).kbdQ = s.kbdQ := rfl
@[simp] theorem poke_conOut (a v : Word) (s : State) : (poke a v s).conOut = s.conOut := rfl
@[simp] theorem poke_conFlushed (a v : Word) (s : State) : (poke a v s).conFlushed = s.conFlushed := rfl
@[simp] theorem poke_held (a v : Word) (s : State) : (poke a v s).held = s.held := rfl
@[simp] theorem poke_kbdInput (a v : Word) (s : State) : (poke a v s).kbdInput = s.kbdInput := rfl

@[simp] theorem readReg_setQueue (r : RegIx) (q : List Byte) (s : State) : readReg r (setQueue q s) = readReg r s := rfl
@[simp] theorem peek_setQueue (addr : Word) (q : List Byte) (s : State) : peek addr (setQueue q s) = peek addr s := rfl
@[simp] theorem setQueue_pc (q : List Byte) (s : State) : (setQueue q s).pc = s.pc := rfl
@[simp] theorem setQueue_cc (q : List Byte) (s : State) : (setQueue q s).cc = s.cc := rfl
@[simp] theorem setQueue_mem (q : List Byte) (s : State) : (setQueue q s).mem = s.mem := rfl
@[simp] theorem setQueue_run (q : List Byte) (s : State) : (setQueue q s).run = s.run := rfl
@[simp] theorem setQueue_faultCause (q : List Byte) (s : State) : (setQueue q s).faultCause = s.faultCause := rfl
@[simp] theorem setQueue_faultInfo (q : List Byte) (s : State) : (setQueue q s).faultInfo = s.faultInfo := rfl
@[simp] theorem setQueue_kbdQ (q : List Byte) (s : State) : (setQueue q s).kbdQ = q := rfl
@[simp] theorem setQueue_conOut (q : List Byte) (s : State) : (setQueue q s).conOut = s.conOut := rfl
@[simp] theorem setQueue_conFlushed (q : List Byte) (s : State) : (setQueue q s).conFlushed = s.conFlushed := rfl
@[simp] theorem setQueue_held (q : List Byte) (s : State) : (setQueue q s).held = s.held := rfl
@[simp] theorem setQueue_kbdInput (q : List Byte) (s : State) : (setQueue q s).kbdInput = s.kbdInput := rfl

@[simp] theorem readReg_setInput (r : RegIx) (later : List (List Byte)) (s : State) : readReg r (setInput later s) = readReg r s := rfl
@[simp] theorem peek_setInput (addr : Word) (later : List (List Byte)) (s : State) : peek addr (setInput later s) = peek addr s := rfl
@[simp] theorem setInput_pc (later : List (List Byte)) (s : State) : (setInput later s).pc = s.pc := rfl
@[simp] theorem setInput_cc (later : List (List Byte)) (s : State) : (setInput later s).cc = s.cc := rfl
@[simp] theorem setInput_mem (later : List (List Byte)) (s : State) : (setInput later s).mem = s.mem := rfl
@[simp] theorem setInput_run (later : List (List Byte)) (s : State) : (setInput later s).run = s.run := rfl
@[simp] theorem setInput_faultCause (later : List (List Byte)) (s : State) : (setInput later s).faultCause = s.faultCause := rfl
@[simp] theorem setInput_faultInfo (later : List (List Byte)) (s : State) : (setInput later s).faultInfo = s.faultInfo := rfl
@[simp] theorem setInput_kbdQ (later : List (List Byte)) (s : State) : (setInput later s).kbdQ = s.kbdQ := rfl
@[simp] theorem setInput_conOut (later : List (List Byte)) (s : State) : (setInput later s).conOut = s.conOut := rfl
@[simp] theorem setInput_conFlushed (later : List (List Byte)) (s : State) : (setInput later s).conFlushed = s.conFlushed := rfl
@[simp] theorem setInput_held (later : List (List Byte)) (s : State) : (setInput later s).held = s.held := rfl
@[simp] theorem setInput_kbdInput (later : List (List Byte)) (s : State) : (setInput later s).kbdInput = later := rfl

@[simp] theorem readReg_conPuts (r : RegIx) (bs : List Byte) (s : State) : readReg r (conPuts bs s) = readReg r s := rfl
@[simp] theorem peek_conPuts (addr : Word) (bs : List Byte) (s : State) : peek addr (conPuts bs s) = peek addr s := rfl
@[simp] theorem conPuts_pc (bs : List Byte) (s : State) : (conPuts bs s).pc = s.pc := rfl
@[simp] theorem conPuts_cc (bs : List Byte) (s : State) : (conPuts bs s).cc = s.cc := rfl
@[simp] theorem conPuts_mem (bs : List Byte) (s : State) : (conPuts bs s).mem = s.mem := rfl
@[simp] theorem conPuts_run (bs : List Byte) (s : State) : (conPuts bs s).run = s.run := rfl
@[simp] theorem conPuts_faultCause (bs : List Byte) (s : State) : (conPuts bs s).faultCause = s.faultCause := rfl
@[simp] theorem conPuts_faultInfo (bs : List Byte) (s : State) : (conPuts bs s).faultInfo = s.faultInfo := rfl
@[simp] theorem conPuts_kbdQ (bs : List Byte) (s : State) : (conPuts bs s).kbdQ = s.kbdQ := rfl
@[simp] theorem conPuts_conOut (bs : List Byte) (s : State) : (conPuts bs s).conOut = s.conOut ++ bs := rfl
@[simp] theorem conPuts_conFlushed (bs : List Byte) (s : State) : (conPuts bs s).conFlushed = s.conFlushed := rfl
@[simp] theorem conPuts_held (bs : List Byte) (s : State) : (conPuts bs s).held = s.held := rfl
@[simp] theorem conPuts_kbdInput (bs : List Byte) (s : State) : (conPuts bs s).kbdInput = s.kbdInput := rfl

@[simp] theorem readReg_conFlush (r : RegIx) (s : State) : readReg r (conFlush s) = readReg r s := rfl
@[simp] theorem peek_conFlush (addr : Word) (s : State) : peek addr (conFlush s) = peek addr s := rfl
@[simp] theorem conFlush_pc (s : State) : (conFlush s).pc = s.pc := rfl
@[simp] theorem conFlush_cc (s : State) : (conFlush s).cc = s.cc := rfl
@[simp] theorem conFlush_mem (s : State) : (conFlush s).mem = s.mem := rfl
@[simp] theorem conFlush_run (s : State) : (conFlush s).run = s.run := rfl
@[simp] theorem conFlush_faultCause (s : State) : (conFlush s).faultCause = s.faultCause := rfl
@[simp] theorem conFlush_faultInfo (s : State) : (conFlush s).faultInfo = s.faultInfo := rfl
@[simp] theorem conFlush_kbdQ (s : State) : (conFlush s).kbdQ = s.kbdQ := rfl
@[simp] theorem conFlush_conOut (s : State) : (conFlush s).conOut = s.conOut := rfl
@[simp] theorem conFlush_conFlushed (s : State) : (conFlush s).conFlushed = s.conOut.length := rfl
@[simp] theorem conFlush_held (s : State) : (conFlush s).held = s.held := rfl
@[simp] theorem conFlush_kbdInput (s : State) : (conFlush s).kbdInput = s.kbdInput := rfl

@[simp] theorem readReg_hold (r : RegIx) (h : Held) (s : State) : readReg r (hold h s) = readReg r s := rfl
@[simp] theorem peek_hold (addr : Word) (h : Held) (s : State) : peek addr (hold h s) = peek addr s := rfl
@[simp] theorem hold_pc (h : Held) (s : State) : (hold h s).pc = s.pc := rfl
@[simp] theorem hold_cc (h : Held) (s : State) : (hold h s).cc = s.cc := rfl
@[simp] theorem hold_mem (h : Held) (s : State) : (hold h s).mem = s.mem := rfl
@[simp] theorem hold_run (h : Held) (s : State) : (hold h s).run = s.run := rfl
@[simp] theorem hold_faultCause (h : Held) (s : State) : (hold h s).faultCause = s.faultCause := rfl
@[simp] theorem hold_faultInfo (h : Held) (s : State) : (hold h s).faultInfo = s.faultInfo := rfl
@[simp] theorem hold_kbdQ (h : Held) (s : State) : (hold h s).kbdQ = s.kbdQ := rfl
@[simp] theorem hold_conOut (h : Held) (s : State) : (hold h s).conOut = s.conOut := rfl
@[simp] theorem hold_conFlushed (h : Held) (s : State) : (hold h s).conFlushed = s.conFlushed := rfl
@[simp] theorem hold_held (h : Held) (s : State) : (hold h s).held = some h := rfl
@[simp] theorem hold_kbdInput (h : Held) (s : State) : (hold h s).kbdInput = s.kbdInput := rfl

@[simp] theorem readReg_release (r : RegIx) (s : State) : readReg r (release s) = readReg r s := rfl
@[simp] theorem peek_release (addr : Word) (s : State) : peek addr (release s) = peek addr s := rfl
@[simp] theorem release_pc (s : State) : (release s).pc = s.pc := rfl
@[simp] theorem release_cc (s : State) : (release s).cc = s.cc := rfl
@[simp] theorem release_mem (s : State) : (release s).mem = s.mem := rfl
@[simp] theorem release_run (s : State) : (release s).run = s.run := rfl
@[simp] theorem release_faultCause (s : State) : (release s).faultCause = s.faultCause := rfl
@[simp] theorem release_faultInfo (s : State) : (release s).faultInfo = s.faultInfo := rfl
@[simp] theorem release_kbdQ (s : State) : (release s).kbdQ = s.kbdQ := rfl
@[simp] theorem release_conOut (s : State) : (release s).conOut = s.conOut := rfl
@[simp] theorem release_conFlushed (s : State) : (release s).conFlushed = s.conFlushed := rfl
@[simp] theorem release_held (s : State) : (release s).held = none := rfl
@[simp] theorem release_kbdInput (s : State) : (release s).kbdInput = s.kbdInput := rfl

@[simp] theorem readReg_stopRunning (r : RegIx) (s : State) : readReg r (stopRunning s) = readReg r s := rfl
@[simp] theorem peek_stopRunning (addr : Word) (s : State) : peek addr (stopRunning s) = peek addr s := rfl
@[simp] theorem stopRunning_pc (s : State) : (stopRunning s).pc = s.pc := rfl
@[simp] theorem stopRunning_cc (s : State) : (stopRunning s).cc = s.cc := rfl
@[simp] theorem stopRunning_mem (s : State) : (stopRunning s).mem = s.mem := rfl
@[simp] theorem stopRunning_run (s : State) : (stopRunning s).run = .halted := rfl
@[simp] theorem stopRunning_faultCause (s : State) : (stopRunning s).faultCause = s.faultCause := rfl
@[simp] theorem stopRunning_faultInfo (s : State) : (stopRunning s).faultInfo = s.faultInfo := rfl
@[simp] theorem stopRunning_kbdQ (s : State) : (stopRunning s).kbdQ = s.kbdQ := rfl
@[simp] theorem stopRunning_conOut (s : State) : (stopRunning s).conOut = s.conOut := rfl
@[simp] theorem stopRunning_conFlushed (s : State) : (stopRunning s).conFlushed = s.conFlushed := rfl
@[simp] theorem stopRunning_held (s : State) : (stopRunning s).held = s.held := rfl
@[simp] theorem stopRunning_kbdInput (s : State) : (stopRunning s).kbdInput = s.kbdInput := rfl

@[simp] theorem readReg_raiseFault (r : RegIx) (c : FaultCause) (w : Word) (s : State) : readReg r (raiseFault c w s) = readReg r s := rfl
@[simp] theorem peek_raiseFault (addr : Word) (c : FaultCause) (w : Word) (s : State) : peek addr (raiseFault c w s) = peek addr s := rfl
@[simp] theorem raiseFault_pc (c : FaultCause) (w : Word) (s : State) : (raiseFault c w s).pc = s.pc := rfl
@[simp] theorem raiseFault_cc (c : FaultCause) (w : Word) (s : State) : (raiseFault c w s).cc = s.cc := rfl
@[simp] theorem raiseFault_mem (c : FaultCause) (w : Word) (s : State) : (raiseFault c w s).mem = s.mem := rfl
@[simp] theorem raiseFault_run (c : FaultCause) (w : Word) (s : State) : (raiseFault c w s).run = .faulted := rfl
@[simp] theorem raiseFault_faultCause (c : FaultCause) (w : Word) (s : State) : (raiseFault c w s).faultCause = c := rfl
@[simp] theorem raiseFault_faultInfo (c : FaultCause) (w : Word) (s : State) : (raiseFault c w s).faultInfo = w := rfl
@[simp] theorem raiseFault_kbdQ (c : FaultCause) (w : Word) (s : State) : (raiseFault c w s).kbdQ = s.kbdQ := rfl
@[simp] theorem raiseFault_conOut (c : FaultCause) (w : Word) (s : State) : (raiseFault c w s).conOut = s.conOut := rfl
@[simp] theorem raiseFault_conFlushed (c : FaultCause) (w : Word) (s : State) : (raiseFault c w s).conFlushed = s.conFlushed := rfl
@[simp] theorem raiseFault_held (c : FaultCause) (w : Word) (s : State) : (raiseFault c w s).held = s.held := rfl
@[simp] theorem raiseFault_kbdInput (c : FaultCause) (w : Word) (s : State) : (raiseFault c w s).kbdInput = s.kbdInput := rfl

end Sys2Proof.Machine
end

