-- ==== Sys2Proof/Laws/Memory.lean ====
section
/-! SUPPORT. The memory laws: what a read answers after a write, and that every memory operation keeps the canonical
form. -/

namespace Sys2Proof.Machine

/-- A write leaves every other address alone, in canonical form or not. -/
theorem memGet_memSet_ne {k j : Nat} (h : k ≠ j) (v : Word) (m : Memory) : memGet (memSet m k v) j = memGet m j := by
  induction m with
  | nil => unfold memSet; split <;> simp [memGet, h]
  | cons e m ih =>
    obtain ⟨a, w⟩ := e
    simp only [memSet]
    split
    · split <;> simp [memGet, h]
    · split
      · next hak => subst hak; split <;> simp [memGet, h]
      · simp only [memGet, ih]

/-- Every address of a memory that is canonical from `lo` reads as unlisted below `lo`. -/
theorem memGet_of_lt {lo k : Nat} {m : Memory} (h : memWfFrom lo m = true) (hk : k < lo) : memGet m k = unlistedCell := by
  induction m generalizing lo with
  | nil => rfl
  | cons e m ih =>
    obtain ⟨a, w⟩ := e
    simp only [memWfFrom, Bool.and_eq_true, decide_eq_true_eq] at h
    rw [memGet, if_neg (by omega)]
    exact ih h.2 (by omega)

/-- A read at the address just written gives the value written, in a canonical memory. -/
theorem memGet_memSet_self {lo : Nat} {m : Memory} (h : memWfFrom lo m = true) (k : Nat) (v : Word) :
    memGet (memSet m k v) k = v := by
  induction m generalizing lo with
  | nil => unfold memSet; split <;> simp_all [memGet]
  | cons e m ih =>
    obtain ⟨a, w⟩ := e
    simp only [memWfFrom, Bool.and_eq_true, decide_eq_true_eq] at h
    simp only [memSet]
    split
    · split
      · next hv => rw [hv, memGet, if_neg (by omega)]; exact memGet_of_lt h.2 (by omega)
      · simp [memGet]
    · split
      · next hak =>
        subst hak
        split
        · next hv => rw [hv]; exact memGet_of_lt h.2 (by omega)
        · simp [memGet]
      · next hak => rw [memGet, if_neg hak]; exact ih h.2

/-- Weakening the lower bound of the canonical form. -/
theorem memWfFrom_mono {lo lo' : Nat} {m : Memory} (h : memWfFrom lo m = true) (hl : lo' ≤ lo) : memWfFrom lo' m = true := by
  cases m with
  | nil => rfl
  | cons e m =>
    obtain ⟨a, w⟩ := e
    simp only [memWfFrom, Bool.and_eq_true, decide_eq_true_eq] at h ⊢
    exact ⟨⟨⟨by omega, h.1.1.2⟩, h.1.2⟩, h.2⟩

/-- A write at an address from `lo` up keeps the canonical form from `lo`. -/
theorem memWfFrom_memSet {lo k : Nat} {m : Memory} (h : memWfFrom lo m = true) (hl : lo ≤ k) (hk : k < 65536) (v : Word) :
    memWfFrom lo (memSet m k v) = true := by
  induction m generalizing lo with
  | nil => unfold memSet; split <;> simp_all [memWfFrom]
  | cons e m ih =>
    obtain ⟨a, w⟩ := e
    have h' := h
    simp only [memWfFrom, Bool.and_eq_true, decide_eq_true_eq] at h
    simp only [memSet]
    split
    · split
      · exact h'
      · next hv =>
        simp only [memWfFrom, Bool.and_eq_true, decide_eq_true_eq]
        exact ⟨⟨⟨hl, hk⟩, by simpa using hv⟩, ⟨⟨by omega, h.1.1.2⟩, h.1.2⟩, h.2⟩
    · split
      · next hak =>
        split
        · exact memWfFrom_mono h.2 (by omega)
        · next hv =>
          simp only [memWfFrom, Bool.and_eq_true, decide_eq_true_eq]
          exact ⟨⟨⟨hl, hk⟩, by simpa using hv⟩, by subst hak; exact h.2⟩
      · simp only [memWfFrom, Bool.and_eq_true, decide_eq_true_eq]
        exact ⟨⟨⟨h.1.1.1, h.1.1.2⟩, h.1.2⟩, ih h.2 (by omega)⟩

/-- A write keeps the canonical form. -/
theorem Memory.wf_memSet {m : Memory} (h : m.wf = true) {k : Nat} (hk : k < 65536) (v : Word) :
    Memory.wf (memSet m k v) = true :=
  memWfFrom_memSet h (Nat.zero_le k) hk v

/-- A cell read after another cell was written. -/
theorem peek_poke_ne {a c : Word} (h : a ≠ c) (v : Word) (s : State) : peek c (poke a v s) = peek c s :=
  memGet_memSet_ne (by rwa [ne_eq, BitVec.toNat_inj]) v s.mem

/-- A cell read after it was written (R55), in a canonical memory. -/
theorem peek_poke_self {s : State} (h : s.mem.wf = true) (a v : Word) : peek a (poke a v s) = v :=
  memGet_memSet_self h a.toNat v

/-- A store keeps the canonical form of the memory. -/
theorem poke_wf {s : State} (h : s.mem.wf = true) (a v : Word) : (poke a v s).mem.wf = true :=
  Memory.wf_memSet h a.isLt v

end Sys2Proof.Machine
end

