-- ==== Sys2Proof/Laws/Ops.lean ====
section
/-! SUPPORT. What each shared operation can do, said once: the keyboard queue, the poll, a read of memory, the keyboard's
turn. -/

namespace Sys2Proof.Machine

/-- With no byte pending `KbdGet` does not return. -/
theorem kbdGet_nil {s : State} (h : s.kbdQ = []) : kbdGet s = none := by simp [kbdGet, h]

/-- With a byte pending `KbdGet` returns the head and takes it off (R207). -/
theorem kbdGet_cons {s : State} {b : Byte} {q : List Byte} (h : s.kbdQ = b :: q) : kbdGet s = some (b, setQueue q s) := by
  simp [kbdGet, h]

/-- The poll with nothing pending (R52). -/
theorem poll_nil {s : State} (h : s.kbdQ = []) : poll s = poke config.kbsrAddr 0x0000#16 s := by
  simp [poll, kbdGet_nil h]

/-- The poll with a byte pending (R52). -/
theorem poll_cons {s : State} {b : Byte} {q : List Byte} (h : s.kbdQ = b :: q) :
    poll s = poke config.kbdrAddr (zext8 b) (poke config.kbsrAddr config.kbReady (setQueue q s)) := by
  simp [poll, kbdGet_cons h]

/-- A read of any address but the keyboard status address is plain (R52, R56). -/
theorem memRead_plain {a : Word} (h : a ≠ config.kbsrAddr) (s : State) : memRead a s = (peek a s, s) := by
  simp [memRead, afterRead, h]

/-- A read of the keyboard status address polls first (R52). -/
theorem memRead_status (s : State) : memRead config.kbsrAddr s = (peek config.kbsrAddr (poll s), poll s) := by
  simp [memRead, afterRead]

/-- Everything a read can do to the state: nothing, or the poll in one of its two forms. -/
theorem afterRead_cases (a : Word) (s : State) :
    afterRead a s = s ∨
    (a = config.kbsrAddr ∧ s.kbdQ = [] ∧ afterRead a s = poke config.kbsrAddr 0x0000#16 s) ∨
    (a = config.kbsrAddr ∧ ∃ b q, s.kbdQ = b :: q ∧
      afterRead a s = poke config.kbdrAddr (zext8 b) (poke config.kbsrAddr config.kbReady (setQueue q s))) := by
  by_cases h : a = config.kbsrAddr
  · cases hq : s.kbdQ with
    | nil => exact .inr (.inl ⟨h, rfl, by simp [afterRead, h, poll_nil hq]⟩)
    | cons b q => exact .inr (.inr ⟨h, b, q, rfl, by simp [afterRead, h, poll_cons hq]⟩)
  · exact .inl (by simp [afterRead, h])

/-- The state part of `MemRead`. -/
@[simp] theorem memRead_snd (a : Word) (s : State) : (memRead a s).2 = afterRead a s := rfl

/-- A read touches memory and the keyboard queue only. -/
theorem afterRead_frame (a : Word) (s : State) :
    afterRead a s = { s with mem := (afterRead a s).mem, kbdQ := (afterRead a s).kbdQ } := by
  rcases afterRead_cases a s with h | ⟨_, _, h⟩ | ⟨_, b, q, _, h⟩ <;> rw [h] <;> rfl

@[simp] theorem readReg_afterRead (r : RegIx) (a : Word) (s : State) : readReg r (afterRead a s) = readReg r s := by
  rw [afterRead_frame]; rfl
@[simp] theorem afterRead_pc (a : Word) (s : State) : (afterRead a s).pc = s.pc := by rw [afterRead_frame]
@[simp] theorem afterRead_cc (a : Word) (s : State) : (afterRead a s).cc = s.cc := by rw [afterRead_frame]
@[simp] theorem afterRead_run (a : Word) (s : State) : (afterRead a s).run = s.run := by rw [afterRead_frame]
@[simp] theorem afterRead_faultCause (a : Word) (s : State) : (afterRead a s).faultCause = s.faultCause := by
  rw [afterRead_frame]
@[simp] theorem afterRead_faultInfo (a : Word) (s : State) : (afterRead a s).faultInfo = s.faultInfo := by
  rw [afterRead_frame]
@[simp] theorem afterRead_conOut (a : Word) (s : State) : (afterRead a s).conOut = s.conOut := by rw [afterRead_frame]
@[simp] theorem afterRead_conFlushed (a : Word) (s : State) : (afterRead a s).conFlushed = s.conFlushed := by
  rw [afterRead_frame]
@[simp] theorem afterRead_held (a : Word) (s : State) : (afterRead a s).held = s.held := by rw [afterRead_frame]
@[simp] theorem afterRead_kbdInput (a : Word) (s : State) : (afterRead a s).kbdInput = s.kbdInput := by
  rw [afterRead_frame]

/-- A read changes no cell but the two keyboard cells (R52). -/
theorem peek_afterRead {c : Word} (h1 : c ≠ config.kbsrAddr) (h2 : c ≠ config.kbdrAddr) (a : Word) (s : State) :
    peek c (afterRead a s) = peek c s := by
  rcases afterRead_cases a s with h | ⟨_, _, h⟩ | ⟨_, b, q, _, h⟩ <;> rw [h]
  · exact peek_poke_ne h1.symm _ _
  · rw [peek_poke_ne h2.symm, peek_poke_ne h1.symm, peek_setQueue]

/-- A read keeps the canonical form of the memory. -/
theorem afterRead_wf {s : State} (h : s.mem.wf = true) (a : Word) : (afterRead a s).mem.wf = true := by
  rcases afterRead_cases a s with e | ⟨_, _, e⟩ | ⟨_, b, q, _, e⟩ <;> rw [e]
  · exact h
  · exact poke_wf h _ _
  · exact poke_wf (poke_wf (s := setQueue q s) h _ _) _ _

/-- A read takes at most the head off the keyboard queue. -/
theorem afterRead_kbdQ (a : Word) (s : State) : (afterRead a s).kbdQ = s.kbdQ ∨ (afterRead a s).kbdQ = s.kbdQ.tail := by
  rcases afterRead_cases a s with e | ⟨_, _, e⟩ | ⟨_, b, q, hq, e⟩ <;> rw [e]
  · exact .inl rfl
  · exact .inl rfl
  · exact .inr (by simp [hq])

/-- Several arrivals at once are appended in order (R205). -/
theorem keySteps_eq (bs : List Byte) (s : State) : keySteps bs s = setQueue (s.kbdQ ++ bs) s := by
  induction bs generalizing s with
  | nil => rw [List.append_nil]; rfl
  | cons b bs ih =>
    rw [keySteps, List.foldl_cons, ← keySteps, ih]
    simp only [keyStep_eq, setQueue_kbdQ, List.append_assoc, List.singleton_append]
    rfl

/-- The keyboard's turn: the head of the schedule arrives, and is taken off it. -/
theorem keyboardTurn_eq (s : State) :
    keyboardTurn s = { s with kbdQ := s.kbdQ ++ s.kbdInput.headD [], kbdInput := s.kbdInput.tail } := by
  cases h : s.kbdInput with
  | nil => simp only [keyboardTurn, h, List.headD_nil, List.append_nil, List.tail_nil]; rw [← h]
  | cons bs later => simp only [keyboardTurn, h, keySteps_eq]; rfl

@[simp] theorem readReg_keyboardTurn (r : RegIx) (s : State) : readReg r (keyboardTurn s) = readReg r s := by
  rw [keyboardTurn_eq]; rfl
@[simp] theorem peek_keyboardTurn (c : Word) (s : State) : peek c (keyboardTurn s) = peek c s := by
  rw [keyboardTurn_eq]; rfl
@[simp] theorem keyboardTurn_pc (s : State) : (keyboardTurn s).pc = s.pc := by rw [keyboardTurn_eq]
@[simp] theorem keyboardTurn_cc (s : State) : (keyboardTurn s).cc = s.cc := by rw [keyboardTurn_eq]
@[simp] theorem keyboardTurn_mem (s : State) : (keyboardTurn s).mem = s.mem := by rw [keyboardTurn_eq]
@[simp] theorem keyboardTurn_run (s : State) : (keyboardTurn s).run = s.run := by rw [keyboardTurn_eq]
@[simp] theorem keyboardTurn_faultCause (s : State) : (keyboardTurn s).faultCause = s.faultCause := by
  rw [keyboardTurn_eq]
@[simp] theorem keyboardTurn_faultInfo (s : State) : (keyboardTurn s).faultInfo = s.faultInfo := by rw [keyboardTurn_eq]
@[simp] theorem keyboardTurn_conOut (s : State) : (keyboardTurn s).conOut = s.conOut := by rw [keyboardTurn_eq]
@[simp] theorem keyboardTurn_conFlushed (s : State) : (keyboardTurn s).conFlushed = s.conFlushed := by
  rw [keyboardTurn_eq]
@[simp] theorem keyboardTurn_held (s : State) : (keyboardTurn s).held = s.held := by rw [keyboardTurn_eq]

end Sys2Proof.Machine
end

