-- ==== Sys2Proof/Laws/PerInstr.lean ====
section
/-! SUPPORT. The per-instruction family InRow: the word of an instruction carries the fixed bits that
spec/opcode_table.json gives its row ("fixed": lowest bit, width, value; JSR's and JSRR's five bits as the opcode and
the mode bit 11, R85). -/

namespace Sys2Proof.Laws.InRow

/-- The fixed fields of an instruction's row: lowest bit, width, value. -/
def fixed : Instr → List (Nat × Nat × Nat)
  | .addReg _ _ _ _ => [(12, 4, 1), (5, 1, 0)]
  | .addImm _ _ _ => [(12, 4, 1), (5, 1, 1)]
  | .andReg _ _ _ _ => [(12, 4, 5), (5, 1, 0)]
  | .andImm _ _ _ => [(12, 4, 5), (5, 1, 1)]
  | .not _ _ _ => [(12, 4, 9)]
  | .br _ _ => [(12, 4, 0)]
  | .jmp _ _ _ => [(12, 4, 12)]
  | .ret _ _ => [(12, 4, 12), (6, 3, 7)]
  | .jsr _ => [(12, 4, 4), (11, 1, 1)]
  | .jsrr _ _ _ => [(12, 4, 4), (11, 1, 0)]
  | .ld _ _ => [(12, 4, 2)]
  | .ldi _ _ => [(12, 4, 10)]
  | .ldr _ _ _ => [(12, 4, 6)]
  | .lea _ _ => [(12, 4, 14)]
  | .st _ _ => [(12, 4, 3)]
  | .sti _ _ => [(12, 4, 11)]
  | .str _ _ _ => [(12, 4, 7)]
  | .trap _ _ => [(12, 4, 15)]
  | .getc _ => [(12, 4, 15), (0, 8, 0x20)]
  | .out _ => [(12, 4, 15), (0, 8, 0x21)]
  | .puts _ => [(12, 4, 15), (0, 8, 0x22)]
  | .inp _ => [(12, 4, 15), (0, 8, 0x23)]
  | .putsp _ => [(12, 4, 15), (0, 8, 0x24)]
  | .halt _ => [(12, 4, 15), (0, 8, 0x25)]
  | .trapUndefined _ _ => [(12, 4, 15)]
  | .reserved8 _ => [(12, 4, 8)]
  | .reserved13 _ => [(12, 4, 13)]

/-- Each fixed field of the row has its value in the instruction's word. -/
def Statement (i : Instr) : Prop := ∀ f ∈ fixed i, (field (encode i) f.1 f.2.1).toNat = f.2.2

/-- The opcode of a word, in the form the statement has it. -/
theorem field_opcode (w : Word) : field w 12 4 = opcodeOf w := rfl

theorem addReg (dr sr1 ign sr2) : Statement (.addReg dr sr1 ign sr2) := by
  simp [Statement, fixed, encode, field_opcode]
  decide

theorem addImm (dr sr1 imm5) : Statement (.addImm dr sr1 imm5) := by
  simp [Statement, fixed, encode, field_opcode]
  decide

theorem andReg (dr sr1 ign sr2) : Statement (.andReg dr sr1 ign sr2) := by
  simp [Statement, fixed, encode, field_opcode]
  decide

theorem andImm (dr sr1 imm5) : Statement (.andImm dr sr1 imm5) := by
  simp [Statement, fixed, encode, field_opcode]
  decide

theorem not (dr sr ign) : Statement (.not dr sr ign) := by
  simp [Statement, fixed, encode, field_opcode]
  decide

theorem br (cond off9) : Statement (.br cond off9) := by
  simp [Statement, fixed, encode, field_opcode]
  decide

theorem jmp (ignHi base ignLo) : Statement (.jmp ignHi base ignLo) := by
  simp [Statement, fixed, encode, field_opcode]
  decide

theorem ret (ignHi ignLo) : Statement (.ret ignHi ignLo) := by
  simp [Statement, fixed, encode, field_opcode]
  decide

theorem jsr (off11) : Statement (.jsr off11) := by
  simp [Statement, fixed, encode, field_opcode]
  decide

theorem jsrr (ignHi base ignLo) : Statement (.jsrr ignHi base ignLo) := by
  simp [Statement, fixed, encode, field_opcode]
  decide

theorem ld (dr off9) : Statement (.ld dr off9) := by
  simp [Statement, fixed, encode, field_opcode]
  decide

theorem ldi (dr off9) : Statement (.ldi dr off9) := by
  simp [Statement, fixed, encode, field_opcode]
  decide

theorem ldr (dr base off6) : Statement (.ldr dr base off6) := by
  simp [Statement, fixed, encode, field_opcode]
  decide

theorem lea (dr off9) : Statement (.lea dr off9) := by
  simp [Statement, fixed, encode, field_opcode]
  decide

theorem st (sr off9) : Statement (.st sr off9) := by
  simp [Statement, fixed, encode, field_opcode]
  decide

theorem sti (sr off9) : Statement (.sti sr off9) := by
  simp [Statement, fixed, encode, field_opcode]
  decide

theorem str (sr base off6) : Statement (.str sr base off6) := by
  simp [Statement, fixed, encode, field_opcode]
  decide

theorem trap (ign v) : Statement (.trap ign v) := by
  simp [Statement, fixed, encode, field_opcode]
  decide

theorem getc (ign) : Statement (.getc ign) := by
  simp [Statement, fixed, encode, field_opcode]
  decide

theorem out (ign) : Statement (.out ign) := by
  simp [Statement, fixed, encode, field_opcode]
  decide

theorem puts (ign) : Statement (.puts ign) := by
  simp [Statement, fixed, encode, field_opcode]
  decide

theorem inp (ign) : Statement (.inp ign) := by
  simp [Statement, fixed, encode, field_opcode]
  decide

theorem putsp (ign) : Statement (.putsp ign) := by
  simp [Statement, fixed, encode, field_opcode]
  decide

theorem halt (ign) : Statement (.halt ign) := by
  simp [Statement, fixed, encode, field_opcode]
  decide

theorem trapUndefined (ign v) : Statement (.trapUndefined ign v) := by
  simp [Statement, fixed, encode, field_opcode]
  decide

theorem reserved8 (low) : Statement (.reserved8 low) := by
  simp [Statement, fixed, encode, field_opcode]

theorem reserved13 (low) : Statement (.reserved13 low) := by
  simp [Statement, fixed, encode, field_opcode]

end Sys2Proof.Laws.InRow
end

