-- ==== Sys2Proof/Laws/Trap.lean ====
section
/-! SUPPORT. What the trap services can do, said once: the two readers with and without a byte pending, and the string
walk with and without a zero cell. -/

namespace Sys2Proof.Machine

/-- GETC with no byte pending holds the cycle (R176). -/
theorem serviceGetc_nil {s : State} (h : s.kbdQ = []) : serviceGetc s = hold .getc s := by
  simp [serviceGetc, kbdGet_nil h]

/-- GETC with a byte pending takes it into R0 (R174). -/
theorem serviceGetc_cons {s : State} {b : Byte} {q : List Byte} (h : s.kbdQ = b :: q) :
    serviceGetc s = receive b (setQueue q s) := by
  simp [serviceGetc, kbdGet_cons h]

/-- IN after its prompt with no byte pending holds the cycle (R176). -/
theorem inAfterPrompt_nil {s : State} (h : s.kbdQ = []) : inAfterPrompt s = hold .inPrompted s := by
  simp [inAfterPrompt, kbdGet_nil h]

/-- IN after its prompt with a byte pending echoes it, flushes and takes it into R0 (R179). -/
theorem inAfterPrompt_cons {s : State} {b : Byte} {q : List Byte} (h : s.kbdQ = b :: q) :
    inAfterPrompt s = receive b (conFlush (conPut b (setQueue q s))) := by
  simp [inAfterPrompt, kbdGet_cons h]

/-- The walk over a string of `n` cells answers the bytes of its cells, in order. -/
theorem stringBytes_some {packed : Bool} {m : Memory} {fuel n : Nat} {a : Word} (hn : n < fuel)
    (hne : ∀ i, i < n → memGet m (a + BitVec.ofNat 16 i).toNat ≠ 0x0000#16)
    (hz : memGet m (a + BitVec.ofNat 16 n).toNat = 0x0000#16) :
    stringBytes packed m fuel a =
      some ((List.range n).flatMap fun i => cellBytes packed (memGet m (a + BitVec.ofNat 16 i).toNat)) := by
  induction n generalizing fuel a with
  | zero =>
    obtain ⟨f, rfl⟩ := Nat.exists_eq_succ_of_ne_zero (by omega : fuel ≠ 0)
    simp only [BitVec.add_zero] at hz
    simp [stringBytes, hz]
  | succ n ih =>
    obtain ⟨f, rfl⟩ := Nat.exists_eq_succ_of_ne_zero (by omega : fuel ≠ 0)
    have shift : ∀ i, a + 1#16 + BitVec.ofNat 16 i = a + BitVec.ofNat 16 (i + 1) := fun i => by
      rw [BitVec.add_assoc, Nat.add_comm i 1, BitVec.ofNat_add]
    have h0 : memGet m a.toNat ≠ 0x0000#16 := by simpa using hne 0 (by omega)
    have hrec := ih (a := a + 1#16) (fuel := f) (by omega)
      (fun i hi => by rw [shift]; exact hne (i + 1) (by omega)) (by rw [shift]; exact hz)
    simp only [stringBytes, if_neg h0, hrec, Option.map_some, List.range_succ_eq_map, List.flatMap_cons,
      List.flatMap_map, shift]
    simp

/-- A walk that answers nothing met no zero cell. -/
theorem stringBytes_none {packed : Bool} {m : Memory} {fuel : Nat} {a : Word} (h : stringBytes packed m fuel a = none) :
    ∀ i, i < fuel → memGet m (a + BitVec.ofNat 16 i).toNat ≠ 0x0000#16 := by
  induction fuel generalizing a with
  | zero => intro i hi; omega
  | succ f ih =>
    simp only [stringBytes] at h
    split at h
    · cases h
    · next h0 =>
      intro i hi
      cases i with
      | zero => simpa using h0
      | succ i =>
        have := ih (by simpa using h) i (by omega)
        rwa [BitVec.add_assoc, ← BitVec.ofNat_add, Nat.add_comm 1 i] at this

/-- Every address is within 65,536 cells of any start. -/
theorem reach (a c : Word) : a + BitVec.ofNat 16 (c - a).toNat = c := by
  rw [BitVec.ofNat_toNat, BitVec.setWidth_eq, BitVec.add_comm, BitVec.sub_add_cancel]

/-- A walk over the whole memory that answers nothing: no cell is zero (R178). -/
theorem stringBytes_none_all {packed : Bool} {m : Memory} {a : Word} (h : stringBytes packed m 65536 a = none)
    (c : Word) : memGet m c.toNat ≠ 0x0000#16 := by
  have := stringBytes_none h (c - a).toNat (c - a).isLt
  rwa [reach] at this

/-- PUTS and PUTSP on a string of `n` cells write its bytes and flush (R177, R180). -/
theorem serviceString_some {packed : Bool} {n : Nat} {s : State} (hn : n < 65536)
    (hne : ∀ i, i < n → peek (readReg 0#3 s + BitVec.ofNat 16 i) s ≠ 0x0000#16)
    (hz : peek (readReg 0#3 s + BitVec.ofNat 16 n) s = 0x0000#16) :
    serviceString packed s = conFlush (conPuts
      ((List.range n).flatMap fun i => cellBytes packed (peek (readReg 0#3 s + BitVec.ofNat 16 i) s)) s) := by
  simp only [serviceString, stringBytes_some hn hne hz]
  rfl

/-- PUTS and PUTSP over a memory with no zero cell hold the cycle open at the string's start (R178). -/
theorem serviceString_none {packed : Bool} {s : State} (h : ∀ c, peek c s ≠ 0x0000#16) :
    serviceString packed s = hold (.walk packed (readReg 0#3 s)) s := by
  have noEnd : ∀ fuel a, stringBytes packed s.mem fuel a = none := by
    intro fuel
    induction fuel with
    | zero => intro a; rfl
    | succ f ih => intro a; rw [stringBytes, if_neg (show memGet s.mem a.toNat ≠ 0x0000#16 from h a), ih, Option.map_none]
  simp only [serviceString, noEnd]

/-- Everything PUTS and PUTSP can do: write some bytes and flush, or hold the cycle over a memory with no zero cell. -/
theorem serviceString_cases (packed : Bool) (s : State) :
    (∃ bs, serviceString packed s = conFlush (conPuts bs s)) ∨
    (serviceString packed s = hold (.walk packed (readReg 0#3 s)) s ∧ ∀ c, peek c s ≠ 0x0000#16) := by
  cases h : stringBytes packed s.mem 65536 (readReg 0#3 s) with
  | some bs => exact .inl ⟨bs, by simp only [serviceString, h]⟩
  | none => exact .inr ⟨by simp only [serviceString, h], fun c => stringBytes_none_all h c⟩

end Sys2Proof.Machine
end

