-- ==== Sys2Proof/Laws/Step.lean ====
section
/-! SUPPORT. What `exec` answers for each constructor, and the cases of a step. -/

namespace Sys2Proof.Machine

@[simp] theorem exec_addReg (dr sr1 ign sr2) (s : State) : exec (.addReg dr sr1 ign sr2) s = .next (writeRegCC dr (readReg sr1 s + readReg sr2 s) s) := rfl
@[simp] theorem exec_addImm (dr sr1 imm5) (s : State) : exec (.addImm dr sr1 imm5) s = .next (writeRegCC dr (readReg sr1 s + sext imm5) s) := rfl
@[simp] theorem exec_andReg (dr sr1 ign sr2) (s : State) : exec (.andReg dr sr1 ign sr2) s = .next (writeRegCC dr (readReg sr1 s &&& readReg sr2 s) s) := rfl
@[simp] theorem exec_andImm (dr sr1 imm5) (s : State) : exec (.andImm dr sr1 imm5) s = .next (writeRegCC dr (readReg sr1 s &&& sext imm5) s) := rfl
@[simp] theorem exec_not (dr sr ign) (s : State) : exec (.not dr sr ign) s = .next (writeRegCC dr (~~~readReg sr s) s) := rfl
@[simp] theorem exec_br (cond off9) (s : State) : exec (.br cond off9) s = .next (if branchTaken cond s then setPc (pcRelative off9 s) s else s) := rfl
@[simp] theorem exec_jmp (ignHi base ignLo) (s : State) : exec (.jmp ignHi base ignLo) s = .next (setPc (readReg base s) s) := rfl
@[simp] theorem exec_ret (ignHi ignLo) (s : State) : exec (.ret ignHi ignLo) s = .next (setPc (readReg 7#3 s) s) := rfl
@[simp] theorem exec_jsr (off11) (s : State) : exec (.jsr off11) s = .next (setPc (pcRelative off11 s) (saveLink s)) := rfl
@[simp] theorem exec_jsrr (ignHi base ignLo) (s : State) : exec (.jsrr ignHi base ignLo) s = .next (setPc (readReg base (saveLink s)) (saveLink s)) := rfl
@[simp] theorem exec_ld (dr off9) (s : State) : exec (.ld dr off9) s = .next (loadInto dr (pcRelative off9 s) s) := rfl
@[simp] theorem exec_ldi (dr off9) (s : State) : exec (.ldi dr off9) s = .next (loadInto dr (memRead (pcRelative off9 s) s).1 (memRead (pcRelative off9 s) s).2) := rfl
@[simp] theorem exec_ldr (dr base off6) (s : State) : exec (.ldr dr base off6) s = .next (loadInto dr (baseOffset base off6 s) s) := rfl
@[simp] theorem exec_lea (dr off9) (s : State) : exec (.lea dr off9) s = .next (writeRegCC dr (pcRelative off9 s) s) := rfl
@[simp] theorem exec_st (sr off9) (s : State) : exec (.st sr off9) s = .next (memWrite (pcRelative off9 s) (readReg sr s) s) := rfl
@[simp] theorem exec_sti (sr off9) (s : State) : exec (.sti sr off9) s = .next (memWrite (memRead (pcRelative off9 s) s).1 (readReg sr s) (memRead (pcRelative off9 s) s).2) := rfl
@[simp] theorem exec_str (sr base off6) (s : State) : exec (.str sr base off6) s = .next (memWrite (baseOffset base off6 s) (readReg sr s) s) := rfl
@[simp] theorem exec_trap (ign v) (s : State) : exec (.trap ign v) s = .next (service v (encode (.trap ign v)) (saveLink s)) := rfl
@[simp] theorem exec_getc (ign) (s : State) : exec (.getc ign) s = .next (serviceGetc (saveLink s)) := rfl
@[simp] theorem exec_out (ign) (s : State) : exec (.out ign) s = .next (serviceOut (saveLink s)) := rfl
@[simp] theorem exec_puts (ign) (s : State) : exec (.puts ign) s = .next (serviceString false (saveLink s)) := rfl
@[simp] theorem exec_inp (ign) (s : State) : exec (.inp ign) s = .next (serviceIn (saveLink s)) := rfl
@[simp] theorem exec_putsp (ign) (s : State) : exec (.putsp ign) s = .next (serviceString true (saveLink s)) := rfl
@[simp] theorem exec_halt (ign) (s : State) : exec (.halt ign) s = .next (serviceHalt (saveLink s)) := rfl
@[simp] theorem exec_trapUndefined (ign v) (s : State) : exec (.trapUndefined ign v) s = .next (serviceUndefined (encode (.trapUndefined ign v)) (saveLink s)) := rfl
@[simp] theorem exec_reserved8 (low) (s : State) : exec (.reserved8 low) s = .next (raiseFault .illegalOpcode (encode (.reserved8 low)) s) := rfl
@[simp] theorem exec_reserved13 (low) (s : State) : exec (.reserved13 low) s = .next (raiseFault .illegalOpcode (encode (.reserved13 low)) s) := rfl

/-- A step of a machine that is not Running is the keyboard's turn alone (R120, R205). -/
theorem step_stopped {s : State} (h : s.run ≠ .running) : step s = .next (keyboardTurn s) := by
  unfold step; split <;> simp_all

/-- A step at the start of a cycle is the cycle, after the keyboard's turn (R110). -/
theorem step_cycle {s : State} (hr : s.run = .running) (hh : s.held = none) : step s = cycle (keyboardTurn s) := by
  simp [step, hr, hh]

/-- A step inside a held cycle goes on with it, after the keyboard's turn (R176, R178). -/
theorem step_held {s : State} {h : Held} (hr : s.run = .running) (hh : s.held = some h) :
    step s = .next (resume h (keyboardTurn s)) := by
  simp [step, hr, hh]

/-- One step more in front of a run. -/
theorem run_succ {s t : State} (k : Nat) (h : step s = .next t) : core.run (k + 1) s = core.run k t := by
  have h' : core.step s = .next t := h
  simp only [Host.Core.run, h']

end Sys2Proof.Machine
end

