-- ==== Sys2Proof/Tests/Slice0.lean ====
section
/-! SUPPORT. The model's own tests. Every expected result is copied from a table or example of 95_test_vectors.md, or is
worked out by hand from the rule named. The witnesses at the end meet the hypotheses of the statements. -/

namespace Sys2Proof.Tests

open Sys2Proof.Machine

/- Well-formedness: one term per check that it refuses, and its neighbours that it accepts. -/

theorem test_wellFormed_jmp_r7 : (Instr.jmp 0#3 7#3 0#6).wellFormed = false ∧ (Instr.jmp 0#3 6#3 0#6).wellFormed = true := by
  decide
theorem test_wellFormed_trap : (Instr.trap 0#4 0x00#8).wellFormed = false ∧ (Instr.trap 0#4 0x20#8).wellFormed = false := by
  decide
theorem test_wellFormed_trapUndefined :
    (∀ v ∈ [0x20#8, 0x21#8, 0x22#8, 0x23#8, 0x24#8, 0x25#8], (Instr.trapUndefined 0#4 v).wellFormed = false) ∧
    (∀ v ∈ [0x00#8, 0x1F#8, 0x26#8, 0xFF#8], (Instr.trapUndefined 0#4 v).wellFormed = true) := by decide

/-- The parameters in force are admissible (R7). -/
theorem test_config_admissible : config.Admissible := by decide

/- Decoding: words of 95_test_vectors.md, or the fields of R82 put together by hand. -/

theorem test_decode_add : decode 0x1642#16 = .addReg 3#3 1#3 0#2 2#3 ∧ decode 0x165A#16 = .addReg 3#3 1#3 3#2 2#3 ∧
    decode 0x14B0#16 = .addImm 2#3 2#3 0x10#5 ∧ decode 0x123F#16 = .addImm 1#3 0#3 0x1F#5 := by decide
theorem test_decode_and : decode 0x5642#16 = .andReg 3#3 1#3 0#2 2#3 ∧ decode 0x526F#16 = .andImm 1#3 1#3 0x0F#5 ∧
    decode 0x5270#16 = .andImm 1#3 1#3 0x10#5 := by decide
theorem test_decode_not : decode 0x947F#16 = .not 2#3 1#3 0x3F#6 ∧ decode 0x9440#16 = .not 2#3 1#3 0#6 := by decide
theorem test_decode_br : decode 0x0BFD#16 = .br 0b101#3 0x1FD#9 ∧ decode 0x0000#16 = .br 0#3 0#9 ∧
    decode 0x0FFE#16 = .br 0b111#3 0x1FE#9 := by decide
theorem test_decode_jmp : decode 0xC080#16 = .jmp 0#3 2#3 0#6 ∧ decode 0xCE87#16 = .jmp 7#3 2#3 7#6 ∧
    decode 0xC1C0#16 = .ret 0#3 0#6 ∧ decode 0xCFFF#16 = .ret 7#3 0x3F#6 := by decide
theorem test_decode_jsr : decode 0x4802#16 = .jsr 2#11 ∧ decode 0x4C00#16 = .jsr 0x400#11 ∧
    decode 0x40C0#16 = .jsrr 0#2 3#3 0#6 ∧ decode 0x41C0#16 = .jsrr 0#2 7#3 0#6 ∧
    decode 0x46FF#16 = .jsrr 3#2 3#3 0x3F#6 := by decide
theorem test_decode_loads : decode 0x2202#16 = .ld 1#3 2#9 ∧ decode 0xA201#16 = .ldi 1#3 1#9 ∧
    decode 0x62BF#16 = .ldr 1#3 2#3 0x3F#6 ∧ decode 0xE1FF#16 = .lea 0#3 0x1FF#9 := by decide
theorem test_decode_stores : decode 0x3205#16 = .st 1#3 5#9 ∧ decode 0xB201#16 = .sti 1#3 1#9 ∧
    decode 0x7283#16 = .str 1#3 2#3 3#6 := by decide
theorem test_decode_services : decode 0xF020#16 = .getc 0#4 ∧ decode 0xF021#16 = .out 0#4 ∧ decode 0xF022#16 = .puts 0#4 ∧
    decode 0xF023#16 = .inp 0#4 ∧ decode 0xF024#16 = .putsp 0#4 ∧ decode 0xF025#16 = .halt 0#4 ∧
    decode 0xFF25#16 = .halt 0xF#4 := by decide
theorem test_decode_undefined_vectors : decode 0xF000#16 = .trapUndefined 0#4 0x00#8 ∧
    decode 0xF01F#16 = .trapUndefined 0#4 0x1F#8 ∧ decode 0xF026#16 = .trapUndefined 0#4 0x26#8 ∧
    decode 0xF0FF#16 = .trapUndefined 0#4 0xFF#8 := by decide
theorem test_decode_reserved : decode 0x8000#16 = .reserved8 0#12 ∧ decode 0x8FFF#16 = .reserved8 0xFFF#12 ∧
    decode 0xD000#16 = .reserved13 0#12 ∧ decode 0xDFFF#16 = .reserved13 0xFFF#12 := by decide
/-- The encoder on the generic TRAP row, which no word decodes to. -/
theorem test_encode_trap : encode (.trap 0xA#4 0x20#8) = 0xFA20#16 := by decide
theorem test_decodeTableWord : decodeTableWord 16 0x5020 = some (.andImm 0#3 0#3 0#5) ∧
    decodeTableWord 16 0x10000 = none ∧ decodeTableWord 24 0x5020 = none := by decide

/- Sign extension, table S1, both sides of the sign for every width; `setcc`, S2. -/

theorem test_sext : sext 0x0F#5 = 0x000F#16 ∧ sext 0x10#5 = 0xFFF0#16 ∧ sext 0x1F#6 = 0x001F#16 ∧
    sext 0x20#6 = 0xFFE0#16 ∧ sext 0x0FF#9 = 0x00FF#16 ∧ sext 0x100#9 = 0xFF00#16 ∧ sext 0x3FF#11 = 0x03FF#16 ∧
    sext 0x400#11 = 0xFC00#16 ∧ sext 0x7FF#11 = 0xFFFF#16 := by decide
theorem test_flagOf : flagOf 0x0000#16 = .z ∧ flagOf 0x0001#16 = .p ∧ flagOf 0x7FFF#16 = .p ∧ flagOf 0x8000#16 = .n ∧
    flagOf 0xFFFF#16 = .n := by decide

/- One step. -/

/-- The reset state with `PC`, `CC`, some registers and some cells set. -/
def start (pc : Word) (cc : Flag) (regs : List (RegIx × Word)) (cells : List (Word × Word)) : State :=
  { cells.foldl (fun s c => poke c.1 c.2 s) (regs.foldl (fun s r => writeReg r.1 r.2 s) State.reset) with
    pc := pc, cc := cc }

/-- The outcome is a next state with the property. -/
def leaves (o : Host.Outcome State Fault Refusal) (p : State → Bool) : Bool :=
  match o with
  | .next t => p t
  | .fault _ => false
  | .refused _ => false

/-- The word `w`, fetched and run from `s`, leaves a next state with the property. -/
def ran (w : Word) (s : State) (p : State → Bool) : Bool := leaves (step (placeWord w s)) p

/-- Register, flag and `PC` after. -/
def shows (r : RegIx) (v : Word) (f : Flag) (pc : Word) (t : State) : Bool := readReg r t = v ∧ t.cc = f ∧ t.pc = pc

/-- Table 2.1. -/
theorem test_addReg : ran 0x165A#16 (start 0x3000#16 .z [(1#3, 5#16), (2#3, 3#16)] []) (shows 3#3 8#16 .p 0x3001#16) ∧
    ran 0x1241#16 (start 0x3000#16 .z [(1#3, 0x8001#16)] []) (shows 1#3 2#16 .p 0x3001#16) := by decide
theorem test_addImm : ran 0x1021#16 (start 0x3000#16 .z [(0#3, 0xFFFF#16)] []) (shows 0#3 0#16 .z 0x3001#16) ∧
    ran 0x123F#16 (start 0x3000#16 .z [] []) (shows 1#3 0xFFFF#16 .n 0x3001#16) := by decide
theorem test_andReg :
    ran 0x5642#16 (start 0x3000#16 .z [(1#3, 0xF0F0#16), (2#3, 0xFF00#16)] []) (shows 3#3 0xF000#16 .n 0x3001#16) := by
  decide
theorem test_andImm : ran 0x526F#16 (start 0x3000#16 .z [(1#3, 0xABCD#16)] []) (shows 1#3 0x000D#16 .p 0x3001#16) ∧
    ran 0x5270#16 (start 0x3000#16 .z [(1#3, 0xABCD#16)] []) (shows 1#3 0xABC0#16 .n 0x3001#16) := by decide
theorem test_not : ran 0x927F#16 (start 0x3000#16 .z [(1#3, 0x00FF#16)] []) (shows 1#3 0xFF00#16 .n 0x3001#16) ∧
    ran 0x9440#16 (start 0x3000#16 .z [] []) (shows 2#3 0xFFFF#16 .n 0x3001#16) := by decide

/-- A row of table 2.2: the word at 0x3005 is taken to 0x3003, or not, for each of the three flags, which stay. -/
def brRow (w : Word) (n z p : Bool) : Bool :=
  [(Flag.n, n), (Flag.z, z), (Flag.p, p)].all fun c =>
    ran w (start 0x3005#16 c.1 [] []) (fun t => t.pc = (if c.2 then 0x3003#16 else 0x3006#16) ∧ t.cc = c.1)

theorem test_br_table_low : brRow 0x01FD#16 false false false ∧ brRow 0x03FD#16 false false true ∧
    brRow 0x05FD#16 false true false ∧ brRow 0x07FD#16 false true true := by decide
theorem test_br_table_high : brRow 0x09FD#16 true false false ∧ brRow 0x0BFD#16 true false true ∧
    brRow 0x0DFD#16 true true false ∧ brRow 0x0FFD#16 true true true := by decide
theorem test_br_wraps : ran 0x0E01#16 (start 0xFFFF#16 .n [] []) (fun t => t.pc = 0x0001#16) ∧
    ran 0x0FFE#16 (start 0x0000#16 .p [] []) (fun t => t.pc = 0xFFFF#16) := by decide
theorem test_jmp : ran 0xCE87#16 (start 0x3000#16 .z [(2#3, 0x4000#16)] []) (fun t => t.pc = 0x4000#16) := by decide
theorem test_ret : ran 0xC1C0#16 (start 0x3007#16 .z [(7#3, 0x3003#16)] []) (shows 7#3 0x3003#16 .z 0x3003#16) := by decide
theorem test_jsr : ran 0x4802#16 (start 0x3000#16 .n [(7#3, 0x1111#16)] []) (shows 7#3 0x3001#16 .n 0x3003#16) ∧
    ran 0x4C00#16 (start 0x3000#16 .z [] []) (shows 7#3 0x3001#16 .z 0x2C01#16) := by decide
theorem test_jsrr : ran 0x40C0#16 (start 0x3010#16 .z [(3#3, 0x5000#16)] []) (shows 7#3 0x3011#16 .z 0x5000#16) ∧
    ran 0x41C0#16 (start 0x3010#16 .z [(7#3, 0x5000#16)] []) (shows 7#3 0x3011#16 .z 0x3011#16) := by decide

/-- Table 2.3. -/
theorem test_ld : ran 0x2202#16 (start 0x3000#16 .z [] [(0x3003#16, 0xABCD#16)]) (shows 1#3 0xABCD#16 .n 0x3001#16) ∧
    ran 0x23FF#16 (start 0x3000#16 .z [] []) (shows 1#3 0x23FF#16 .p 0x3001#16) := by decide
theorem test_ldi : ran 0xA201#16 (start 0x3000#16 .z [] [(0x3002#16, 0x4000#16), (0x4000#16, 7#16)])
    (shows 1#3 7#16 .p 0x3001#16) := by decide
theorem test_ldr :
    ran 0x6281#16 (start 0x3000#16 .z [(2#3, 0xFFFF#16)] [(0x0000#16, 0x00AA#16)]) (shows 1#3 0x00AA#16 .p 0x3001#16) ∧
    ran 0x6480#16 (start 0x3000#16 .z [(2#3, 0x4000#16)] [(0x4000#16, 0x8888#16)]) (shows 2#3 0x8888#16 .n 0x3001#16) := by
  decide
theorem test_lea : ran 0xE1FF#16 (start 0x0000#16 .p [] []) (shows 0#3 0x0000#16 .z 0x0001#16) ∧
    ran 0xE000#16 (start 0x7FFF#16 .z [] []) (shows 0#3 0x8000#16 .n 0x8000#16) := by decide
theorem test_st : ran 0x3205#16 (start 0x3000#16 .p [(1#3, 0x1234#16)] [])
    (fun t => peek 0x3006#16 t = 0x1234#16 ∧ t.cc = .p) := by decide
theorem test_sti : ran 0xB201#16 (start 0x3000#16 .z [(1#3, 0x00FF#16)] [(0x3002#16, 0x5000#16)])
      (fun t => peek 0x5000#16 t = 0x00FF#16 ∧ peek 0x3002#16 t = 0x5000#16) ∧
    ran 0xB201#16 (start 0x3000#16 .z [(1#3, 0x1111#16)] [(0x3002#16, 0x3002#16)])
      (fun t => peek 0x3002#16 t = 0x1111#16) := by decide
theorem test_str : ran 0x7283#16 (start 0x3000#16 .z [(1#3, 0xBEEF#16), (2#3, 0x4000#16)] [])
    (fun t => peek 0x4003#16 t = 0xBEEF#16) := by decide

/-- Table 2.4: the poll through LDI, with a byte pending and with none; a read of the data cell; a store to the status
cell; the two fetches from it. -/
theorem test_keyboard_poll :
    ran 0xA001#16 { start 0x3000#16 .z [] [(0x3002#16, 0xFE00#16)] with kbdQ := [0x41#8, 0x42#8] }
      (fun t => shows 0#3 0x8000#16 .n 0x3001#16 t ∧ peek 0xFE00#16 t = 0x8000#16 ∧ peek 0xFE02#16 t = 0x0041#16 ∧
        t.kbdQ = [0x42#8]) ∧
    ran 0xA001#16 (start 0x3000#16 .n [] [(0x3002#16, 0xFE00#16), (0xFE00#16, 0x8000#16), (0xFE02#16, 0x0041#16)])
      (fun t => shows 0#3 0x0000#16 .z 0x3001#16 t ∧ peek 0xFE00#16 t = 0x0000#16 ∧ peek 0xFE02#16 t = 0x0041#16) := by
  decide
theorem test_keyboard_plain :
    ran 0xA001#16 { start 0x3000#16 .z [] [(0x3002#16, 0xFE02#16), (0xFE00#16, 0x8000#16), (0xFE02#16, 0x0041#16)] with
        kbdQ := [0x42#8] }
      (fun t => shows 0#3 0x0041#16 .p 0x3001#16 t ∧ peek 0xFE00#16 t = 0x8000#16 ∧ t.kbdQ = [0x42#8]) ∧
    ran 0xB201#16 { start 0x3000#16 .z [(1#3, 0x1234#16)] [(0x3002#16, 0xFE00#16)] with kbdQ := [0x41#8] }
      (fun t => peek 0xFE00#16 t = 0x1234#16 ∧ peek 0xFE02#16 t = 0x0000#16 ∧ t.kbdQ = [0x41#8]) := by decide
theorem test_keyboard_fetch :
    ran 0x1234#16 { start 0xFE00#16 .z [] [] with kbdQ := [0x78#8] }
      (fun t => t.run = .faulted ∧ t.faultCause = .illegalOpcode ∧ t.faultInfo = 0x8000#16 ∧ t.pc = 0xFE01#16 ∧
        peek 0xFE02#16 t = 0x0078#16 ∧ t.kbdQ = []) ∧
    ran 0x1234#16 (start 0xFE00#16 .z [] [])
      (fun t => t.run = .running ∧ t.pc = 0xFE01#16 ∧ peek 0xFE00#16 t = 0x0000#16) := by decide

/-- Table 2.5. -/
theorem test_getc :
    ran 0xF020#16 { start 0x3000#16 .z [(0#3, 0xABCD#16)] [] with kbdQ := [0xFF#8] }
      (fun t => shows 0#3 0x00FF#16 .p 0x3001#16 t ∧ readReg 7#3 t = 0x3001#16 ∧ t.conOut = [] ∧ t.kbdQ = []) ∧
    ran 0xF020#16 (start 0x3000#16 .z [] []) (fun t => t.held = some .getc ∧ t.pc = 0x3001#16) := by decide
/-- Table 2.5, the fourth row: when the keyboard agent appends the byte, the first row applies. -/
theorem test_getc_later :
    leaves (step { start 0x3001#16 .n [] [] with held := some .getc, kbdInput := [[0x61#8]] })
      (fun t => shows 0#3 0x0061#16 .p 0x3001#16 t ∧ t.held = none ∧ t.kbdQ = []) := by decide
theorem test_out : ran 0xF021#16 (start 0x3000#16 .p [(0#3, 0x1248#16)] [])
    (fun t => t.conOut = [0x48#8] ∧ shows 0#3 0x1248#16 .p 0x3001#16 t) := by decide
theorem test_puts :
    ran 0xF022#16 (start 0x3000#16 .z [(0#3, 0x3003#16)] [(0x3003#16, 0x0048#16), (0x3004#16, 0x0069#16)])
      (fun t => t.conOut = [0x48#8, 0x69#8] ∧ readReg 7#3 t = 0x3001#16) ∧
    ran 0xF022#16 (start 0x3000#16 .z [(0#3, 0xFFFF#16)] [(0xFFFF#16, 0x0041#16), (0x0000#16, 0x0142#16)])
      (fun t => t.conOut = [0x41#8, 0x42#8]) := by decide
/-- R176, R179: with no byte pending IN has emitted its prompt and waits; the byte that arrives is echoed. -/
theorem test_in_held :
    ran 0xF023#16 (start 0x3000#16 .z [] []) (fun t => t.held = some .inPrompted ∧ t.conOut = config.inPrompt) ∧
    leaves (step { start 0x3001#16 .z [] [] with held := some .inPrompted, kbdInput := [[0x79#8]] })
      (fun t => t.conOut = [0x79#8] ∧ shows 0#3 0x0079#16 .p 0x3001#16 t) := by decide
/-- R120, R205: after HALT nothing moves but the keyboard's queue. -/
theorem test_halted_keyboard :
    step { State.reset with run := .halted, kbdInput := [[0x61#8], [0x62#8]] } =
      .next { State.reset with run := .halted, kbdQ := [0x61#8], kbdInput := [[0x62#8]] } := rfl
/-- Table 2.5: the prompt is "Enter a character: ". -/
theorem test_in : ran 0xF023#16 { start 0x3000#16 .z [] [] with kbdQ := [0x79#8] }
    (fun t => t.conOut.map (fun b => Char.ofNat b.toNat) = "Enter a character: ".toList ++ ['y'] ∧
      shows 0#3 0x0079#16 .p 0x3001#16 t) := by decide
theorem test_putsp :
    ran 0xF024#16 (start 0x3000#16 .z [(0#3, 0x4000#16)] [(0x4000#16, 0x6548#16), (0x4001#16, 0x006C#16)])
      (fun t => t.conOut = [0x48#8, 0x65#8, 0x6C#8]) ∧
    ran 0xF024#16 (start 0x3000#16 .z [(0#3, 0x4000#16)] [(0x4000#16, 0x4100#16)])
      (fun t => t.conOut = [0x00#8, 0x41#8]) := by decide
/-- Table 2.5: the notice is "HALT" and a newline. -/
theorem test_halt : ran 0xFF25#16 (start 0x3000#16 .z [] [])
    (fun t => t.conOut.map (fun b => Char.ofNat b.toNat) = "HALT\n".toList ∧ t.run = .halted ∧
      shows 7#3 0x3001#16 .z 0x3001#16 t) := by decide
theorem test_trapUndefined : ran 0xF026#16 (start 0x3000#16 .z [] [])
    (fun t => t.run = .faulted ∧ t.faultCause = .undefinedTrapVector ∧ t.faultInfo = 0xF026#16 ∧
      shows 7#3 0x3001#16 .z 0x3001#16 t) := by decide
/-- The generic TRAP row answers what the service of its vector answers (R170). -/
theorem test_trap : exec (.trap 0#4 0x21#8) State.reset = exec (.out 0#4) State.reset ∧
    exec (.trap 3#4 0x26#8) State.reset = exec (.trapUndefined 3#4 0x26#8) State.reset := ⟨rfl, rfl⟩

/-- Table 2.6. -/
theorem test_reserved :
    ran 0x8FFF#16 (start 0x3000#16 .z [] [])
      (fun t => t.run = .faulted ∧ t.faultCause = .illegalOpcode ∧ t.faultInfo = 0x8FFF#16 ∧ t.pc = 0x3001#16 ∧
        t.conOut = []) ∧
    ran 0xDFFF#16 (start 0xFFFF#16 .z [] [])
      (fun t => t.run = .faulted ∧ t.faultInfo = 0xDFFF#16 ∧ t.pc = 0x0000#16) := by decide

/-- Table 2.7: an odd last byte, the top of memory, an image too short, an overwriting image. -/
theorem test_loader :
    loadImage [0x30#8, 0x00#8, 0xE0#8, 0x02#8, 0xF0#8] [] = [(0x3000, 0xE002#16)] ∧
    loadImage [0xFF#8, 0xFF#8, 0x00#8, 0x01#8, 0x00#8, 0x02#8, 0x00#8, 0x03#8] [] = [(0xFFFF, 0x0001#16)] ∧
    loadImage [0x30#8, 0x00#8] [] = [] ∧ loadImage [0x30#8] [] = [] ∧ loadImage [] [] = [] ∧
    loadImage [0x30#8, 0x00#8, 0x22#8, 0x22#8] (loadImage [0x30#8, 0x00#8, 0x11#8, 0x11#8] []) =
      [(0x3000, 0x2222#16)] := by decide
/-- S4: after the load one cycle of ADD R0,R0,#0 leaves memory alone. -/
theorem test_boot_first_cycle :
    (boot [some [0x30#8, 0x00#8, 0x10#8, 0x20#8, 0xF0#8, 0x25#8]] State.reset).any (fun s => leaves (step s)
      (fun t => shows 0#3 0x0000#16 .z 0x3001#16 t ∧ t.mem = [(0x3000, 0x1020#16), (0x3001, 0xF025#16)])) := by decide

/- Witnesses: for each statement with hypotheses, states and operands that meet all of them, clause by clause. -/

/-- `n` cells that hold 1, from address `a` on. -/
def filled : Nat → Nat → Memory
  | _, 0 => []
  | a, n + 1 => (a, 0x0001#16) :: filled (a + 1) n

theorem memGet_filled {a n k : Nat} (h : a ≤ k) (hk : k < a + n) : memGet (filled a n) k = 0x0001#16 := by
  induction n generalizing a with
  | zero => omega
  | succ n ih =>
    rw [filled, memGet]
    split
    · rfl
    · exact ih (by omega) (by omega)

theorem memGet_filled_above {a n k : Nat} (hk : a + n ≤ k) : memGet (filled a n) k = 0x0000#16 := by
  induction n generalizing a with
  | zero => rfl
  | succ n ih => rw [filled, memGet, if_neg (by omega)]; exact ih (by omega)

theorem filled_wf {a n : Nat} (h : a + n ≤ 65536) : memWfFrom a (filled a n) = true := by
  induction n generalizing a with
  | zero => rfl
  | succ n ih =>
    simp only [filled, memWfFrom, Bool.and_eq_true, decide_eq_true_eq]
    exact ⟨⟨⟨Nat.le_refl a, by omega⟩, rfl⟩, ih (by omega)⟩

/-- The reset state with no zero cell at all. -/
def noZero : State := { State.reset with mem := filled 0 65536 }
/-- The reset state with the string of 65,535 cells from address 0. -/
def longest : State := { State.reset with mem := filled 0 65535 }
/-- The string "Hi" of program P1, at R0. -/
def hi : State := start 0x3001#16 .z [(0#3, 0x3003#16)] [(0x3003#16, 0x0048#16), (0x3004#16, 0x0069#16)]
/-- The string of table 2.5 that wraps past 0xFFFF, at R0. -/
def wrapped : State := start 0x3001#16 .z [(0#3, 0xFFFF#16)] [(0xFFFF#16, 0x0041#16), (0x0000#16, 0x0042#16)]
/-- A byte pending. -/
def pending : State := { State.reset with kbdQ := [0x61#8] }
/-- `PC` at the keyboard status cell. -/
def atStatus : State := { State.reset with pc := 0xFE00#16 }

theorem test_witness_DecodeAndEncodeAgree : (Instr.jmp 0#3 6#3 0#6).WellFormed ∧ (Instr.ret 7#3 0x3F#6).WellFormed ∧
    (Instr.trapUndefined 0#4 0x26#8).WellFormed ∧ (Instr.reserved8 0#12).WellFormed := by decide

theorem test_witness_TablePatternsDecode :
    ((0x1F#8).toNat < 0x20 ∨ 0x25 < (0x1F#8).toNat) ∧ ((0x26#8).toNat < 0x20 ∨ 0x25 < (0x26#8).toNat) := by decide

/-- The ends of the three ranges of words, inside and outside. -/
theorem test_witness_FaultingWordsAreTheseRanges :
    decode 0x7FFF#16 = .str 7#3 7#3 0x3F#6 ∧ decode 0x9000#16 = .not 0#3 0#3 0#6 ∧ decode 0xCFFF#16 = .ret 7#3 0x3F#6 ∧
    decode 0xE000#16 = .lea 0#3 0#9 ∧ decode 0xEFFF#16 = .lea 7#3 0x1FF#9 ∧
    decode 0xFFFF#16 = .trapUndefined 0xF#4 0xFF#8 := by decide

theorem test_witness_IgnoredBitsHaveNoEffect :
    leaves (exec (.not 1#3 2#3 0#6) State.reset) (fun t => t.run ≠ .faulted) ∧
    leaves (exec (.reserved8 0xFFF#12) State.reset) (fun t => t.run = .faulted ∧ t.faultInfo = 0x8FFF#16) := by decide

/-- The last value before the sign bit and the first one with it, for each of the four widths. -/
theorem test_witness_SignExtensionIsTwosComplement :
    (0x0F#5).toNat < 2 ^ (5 - 1) ∧ ¬ (0x10#5).toNat < 2 ^ (5 - 1) ∧ (0x1F#6).toNat < 2 ^ (6 - 1) ∧
    ¬ (0x20#6).toNat < 2 ^ (6 - 1) ∧ (0x0FF#9).toNat < 2 ^ (9 - 1) ∧ ¬ (0x100#9).toNat < 2 ^ (9 - 1) ∧
    (0x3FF#11).toNat < 2 ^ (11 - 1) ∧ ¬ (0x400#11).toNat < 2 ^ (11 - 1) := by decide

theorem test_witness_StatusReadPollsTheKeyboard :
    (State.reset.mem.wf = true ∧ State.reset.kbdQ = []) ∧ (pending.mem.wf = true ∧ pending.kbdQ = 0x61#8 :: []) ∧
    config.kbdrAddr ≠ config.kbsrAddr := by decide

/-- The hypothesis of the stores too. -/
theorem test_witness_WriteStoresWithoutSideEffect : hi.mem.wf = true ∧ noZero.mem.wf = true :=
  ⟨by decide, filled_wf (by decide)⟩

theorem test_witness_GetcTakesTheNextByte : pending.kbdQ = 0x61#8 :: [] ∧ State.reset.kbdQ = [] := by decide

/-- The same hypothesis in the statements about PUTS, PUTSP and the walk: lengths 0, 2 (one of them wrapping) and
65,535. -/
theorem test_witness_StringAt : StringAt (readReg 0#3 State.reset) 0 State.reset ∧ StringAt (readReg 0#3 hi) 2 hi ∧
    StringAt (readReg 0#3 wrapped) 2 wrapped ∧ StringAt (readReg 0#3 longest) 65535 longest := by
  refine ⟨⟨by decide, by decide, by decide⟩, ⟨by decide, by decide, by decide⟩, ⟨by decide, by decide, by decide⟩,
    by decide, fun i hi => ?_, ?_⟩
  · have h : peek (readReg 0#3 longest + BitVec.ofNat 16 i) longest = 0x0001#16 :=
      memGet_filled (Nat.zero_le _) (by simp [readReg, longest, State.reset]; omega)
    rw [h]; decide
  · exact memGet_filled_above (by decide)

theorem test_witness_InPromptsEchoesAndTakesTheNextByte : pending.kbdQ = 0x61#8 :: [] ∧
    ({ State.reset with kbdInput := [[], [0x61#8]] } : State).kbdQ = [] := by decide

theorem test_witness_ReservedOpcodeFaults :
    (∃ low, Instr.reserved8 0#12 = .reserved8 low) ∧ (∃ low, Instr.reserved13 0xFFF#12 = .reserved13 low) :=
  ⟨⟨_, rfl⟩, ⟨_, rfl⟩⟩

theorem test_witness_ReadersHoldWhileNothingArrives :
    (∃ ign, Instr.getc 0#4 = .getc ign) ∧ (∃ ign, Instr.inp 0#4 = .inp ign) ∧ State.reset.run = .running ∧
    State.reset.kbdQ = [] ∧ State.reset.kbdInput = [] := ⟨⟨_, rfl⟩, ⟨_, rfl⟩, rfl, rfl, rfl⟩

/-- A byte that waits already, and one that arrives with this step, in each of the two held cycles. -/
theorem test_witness_ArrivalLiftsTheHold :
    ∀ h ∈ [Held.getc, Held.inPrompted], ∀ s ∈ [{ pending with held := some h },
        { State.reset with held := some h, kbdInput := [[0x61#8]] }],
      s.run = .running ∧ (keyboardTurn s).kbdQ = 0x61#8 :: [] ∧ s.held = some h := by decide

theorem test_witness_StringWalkEndsAtAZeroCell :
    (∃ ign, Instr.puts 0#4 = .puts ign) ∧ (∃ ign, Instr.putsp 0#4 = .putsp ign) ∧ (∃ a, peek a longest = 0x0000#16) :=
  ⟨⟨_, rfl⟩, ⟨_, rfl⟩, 0xFFFF#16, memGet_filled_above (by decide)⟩

theorem test_witness_EndlessStringWalkNeverCompletes : noZero.run = .running ∧ ∀ a, peek a noZero ≠ 0x0000#16 := by
  refine ⟨rfl, fun a => ?_⟩
  have h : peek a noZero = 0x0001#16 := memGet_filled (Nat.zero_le _) (by rw [Nat.zero_add]; exact a.isLt)
  rw [h]; decide

theorem test_witness_WalkLoopRefinesTheStringService :
    hi.run = .running ∧ hi.kbdInput = [] ∧ StringAt (readReg 0#3 hi) 2 hi :=
  ⟨rfl, rfl, test_witness_StringAt.2.1⟩

/-- Both clauses: `PC` at an ordinary cell and at the keyboard status cell. -/
theorem test_witness_StepRunsTheDecodedInstruction :
    State.reset.run = .running ∧ State.reset.held = none ∧ State.reset.pc ≠ config.kbsrAddr ∧
    atStatus.run = .running ∧ atStatus.held = none ∧ atStatus.pc = config.kbsrAddr := by decide

theorem test_witness_FetchFromKeyboardStatusPolls :
    ∀ q ∈ [[], [0x78#8]], ∀ s, s = { atStatus with kbdQ := q } →
      s.mem.wf = true ∧ s.run = .running ∧ s.held = none ∧ s.pc = config.kbsrAddr ∧ (keyboardTurn s).kbdQ = q := by
  rintro q hq s rfl
  exact ⟨rfl, rfl, rfl, rfl, rfl⟩

theorem test_witness_StoppedMachineIsFrozen :
    leaves (exec (.halt 0#4) State.reset) (fun s => s.run = .halted) ∧
    leaves (exec (.reserved13 0#12) State.reset) (fun s => s.run = .faulted) := by decide

theorem test_witness_PlacedWordIsTheNextInstruction :
    State.reset.mem.wf = true ∧ 65535 < 65536 ∧ State.reset.pc ≠ config.kbsrAddr := by decide

theorem test_witness_BootResetsAndLoadsInOrder : none ∈ [some [0x30#8, 0x00#8], none] := by decide

/-- The memory and the odd byte, present and absent; a word at the top of memory; an address below, one just past the
image, one above the address space; an image too short. -/
theorem test_witness_LoaderPlacesTheImage :
    Memory.wf [] = true ∧ [0xF0#8].length ≤ 1 ∧ ([] : List Byte).length ≤ 1 ∧
    (0 < [(0x00#8, 0x01#8)].length ∧ (0xFF#8).toNat * 256 + (0xFF#8).toNat + 0 ≤ 65535) ∧
    (0x2FFF < (0x30#8).toNat * 256 + (0x00#8).toNat ∧
      (0x30#8).toNat * 256 + (0x00#8).toNat + [(0x00#8, 0x01#8)].length ≤ 0x3001 ∧ 65535 < 65536) ∧
    ([] : List Byte).length < 2 ∧ [0x30#8].length < 2 := by decide

/-- The invariant holds at reset (stated as an obligation too), in a Faulted state, and in a held one; each has a step. -/
theorem test_witness_StepKeepsTheInvariant : Invariant State.reset ∧
    Invariant (raiseFault .illegalOpcode 0x8000#16 State.reset) ∧ Invariant (hold .getc State.reset) ∧
    step State.reset = .next (setPc 0x3001#16 State.reset) ∧
    step (hold .getc State.reset) = .next (hold .getc State.reset) := by
  refine ⟨⟨rfl, by decide, by decide, by decide, by decide, by decide, by decide, by decide, ?_⟩,
    ⟨rfl, by decide, by decide, by decide, by decide, by decide, by decide, by decide, ?_⟩,
    ⟨rfl, by decide, by decide, by decide, by decide, by decide, by decide, by decide, ?_⟩, rfl, rfl⟩ <;>
  · intro packed a h; cases h

theorem test_witness_OnlyNamedRegistersAreWritten : (6#3) ∉ mayWrite (.getc 0#4) ∧ (1#3) ≠ (0#3) ∧
    (7#3) ∉ mayWrite (.str 7#3 7#3 0#6) ∧ (0#3) ∉ mayWrite (.trap 0#4 0x21#8) := by decide

theorem test_witness_ConditionRegisterWritersAndReader :
    flagRegister (.lea 5#3 0#9) = some 5#3 ∧ flagRegister (.st 0#3 0#9) = none ∧
    ∀ cond off9, Instr.lea 0#3 0#9 ≠ .br cond off9 :=
  ⟨rfl, rfl, fun _ _ h => by cases h⟩

theorem test_witness_OnlyStoresAndPollsWriteMemory :
    (isLoad (.lea 0#3 0#9) = false ∧ isStore (.lea 0#3 0#9) = false) ∧ isStore (.ldi 0#3 0#9) = false ∧ 0xFE01#16 ≠ config.kbsrAddr ∧ 0xFE01#16 ≠ config.kbdrAddr := by decide

/-- A stopped state, a step that halts, and a step into the Faulted state by each of its three ways. -/
theorem test_witness_RunStateTransitions :
    step { State.reset with run := .halted } = .next { State.reset with run := .halted } ∧
    ran 0xF025#16 State.reset (fun t => t.run = .halted) ∧ ran 0x8000#16 State.reset (fun t => t.run = .faulted) ∧
    ran 0xD000#16 State.reset (fun t => t.run = .faulted) ∧ ran 0xF000#16 State.reset (fun t => t.run = .faulted) := by
  refine ⟨rfl, ?_⟩; decide

/-- A step that takes the head, and a step of a stopped machine. -/
theorem test_witness_ChannelsAreQueues :
    ran 0xF020#16 { pending with kbdInput := [[0x62#8]] } (fun t => t.kbdQ = [0x62#8] ∧ t.kbdInput = []) ∧
    leaves (step { pending with run := .halted, kbdInput := [[0x62#8]] }) (fun t => t.kbdQ = [0x61#8, 0x62#8]) := by decide

end Sys2Proof.Tests
end

section
/-!
Immediate and offset fields as numbers (R10): what `sext` and `zext8` answer, at every width that fits a word.
-/
namespace Sys2Proof.Machine

/-- R10 at every width up to 16: the sign bit is the top bit of the field, and a set one adds the `65536 - 2^n` of
the bits above it. -/
theorem sext_toNat {n : Nat} (hn : n ≤ 16) (f : BitVec n) :
    (sext f).toNat = if f.toNat < 2 ^ (n - 1) then f.toNat else f.toNat + 65536 - 2 ^ n := by
  have hpow : 2 ^ n ≤ 65536 := Nat.pow_le_pow_right (by decide) hn
  rw [sext, BitVec.toNat_signExtend, BitVec.toNat_setWidth_of_le hn, BitVec.msb_eq_decide]
  by_cases hsign : f.toNat < 2 ^ (n - 1)
  · rw [if_pos hsign, if_neg (mt of_decide_eq_true (Nat.not_le_of_lt hsign)), Nat.add_zero]
  · rw [if_neg hsign, if_pos (decide_eq_true (Nat.le_of_not_lt hsign)), Nat.add_sub_assoc hpow f.toNat]

@[simp] theorem zext8_toNat (b : Byte) : (zext8 b).toNat = b.toNat :=
  BitVec.toNat_setWidth_of_le (by decide)

/-- Settles O6: the four widths are instances of `sext_toNat`. -/
theorem signExtensionIsTwosComplement : Obligations.SignExtensionIsTwosComplement :=
  ⟨fun _ hn f => sext_toNat (by omega) f, zext8_toNat⟩

end Sys2Proof.Machine
end

section
/-!
Reset and `setcc`: the flag of a value as a number (R29), and the state after reset (R23, R32, R42).
-/
namespace Sys2Proof.Machine

/-- The two spellings of R29 agree: by bit 15, and by the value as a number. -/
theorem flagOf_eq_signFlag (v : Word) : flagOf v = signFlag v := by
  simp [flagOf, signFlag, BitVec.msb_eq_decide, BitVec.toNat_eq]

theorem setcc_changesOnly (v : Word) (s : State) : ChangesOnly { cc := true } s (setcc v s) :=
  ⟨fun _ _ => rfl, fun _ _ => rfl, fun _ => rfl, nofun, fun _ => rfl, fun _ => ⟨rfl, rfl⟩, fun _ => rfl,
    fun _ => ⟨rfl, rfl⟩, fun _ => rfl, rfl⟩

/-- Settles O7: bit 15 is the sign bit, and `flagOf_eq_signFlag` says the rest. -/
theorem setccFollowsTheSign : Obligations.SetccFollowsTheSign := fun v s =>
  ⟨rfl, flagOf_eq_signFlag v, setcc_changesOnly v s⟩

@[simp] theorem readReg_reset (r : RegIx) : readReg r State.reset = 0x0000#16 :=
  Vector.getElem_replicate _

/-- Settles O45. -/
theorem resetZeroesTheRegisters : Obligations.ResetZeroesTheRegisters :=
  ⟨readReg_reset, rfl, rfl, rfl, fun r => by rw [setcc_cc, readReg_reset]; rfl⟩

end Sys2Proof.Machine
end

section
/-!
The trap services and the reads: what each leaves unchanged. The services' case lemmas are those of
Sys2Proof/Laws/Trap.lean.
-/
namespace Sys2Proof.Machine

@[simp] theorem receive_eq (b : Byte) (s : State) : receive b s = setcc (zext8 b) (writeReg 0#3 (zext8 b) s) := rfl
@[simp] theorem serviceOut_eq (s : State) : serviceOut s = conFlush (conPuts [lowByte (readReg 0#3 s)] s) := rfl
@[simp] theorem serviceIn_eq (s : State) : serviceIn s = inAfterPrompt (conPuts config.inPrompt s) := rfl
@[simp] theorem serviceHalt_eq (s : State) :
    serviceHalt s = stopRunning (conFlush (conPuts config.haltNotice s)) := rfl
/-- The switch of R7 is off, so an undefined vector faults (R182; log 12). -/
@[simp] theorem serviceUndefined_eq (w : Word) (s : State) :
    serviceUndefined w s = raiseFault .undefinedTrapVector w s := rfl
@[simp] theorem jumpThrough_eq (base : RegIx) (s : State) : jumpThrough base s = setPc (readReg base s) s := rfl
@[simp] theorem loadInto_eq (dr : RegIx) (a : Word) (s : State) :
    loadInto dr a s = setcc (memRead a s).1 (writeReg dr (memRead a s).1 (afterRead a s)) := rfl

/-- Everything GETC can do: hold the cycle, or take the byte at the head of the queue. -/
theorem serviceGetc_cases (s : State) :
    serviceGetc s = hold .getc s ∨ ∃ b q, serviceGetc s = receive b (setQueue q s) := by
  cases h : s.kbdQ with
  | nil => exact .inl (serviceGetc_nil h)
  | cons b q => exact .inr ⟨b, q, serviceGetc_cons h⟩

/-- Everything IN can do after its prompt: hold the cycle, or echo, flush and take the byte at the head of the queue. -/
theorem inAfterPrompt_cases (s : State) :
    inAfterPrompt s = hold .inPrompted s ∨
    ∃ b q, inAfterPrompt s = receive b (conFlush (conPut b (setQueue q s))) := by
  cases h : s.kbdQ with
  | nil => exact .inl (inAfterPrompt_nil h)
  | cons b q => exact .inr ⟨b, q, inAfterPrompt_cons h⟩

theorem readReg_serviceGetc {r : RegIx} (hr : r ≠ 0#3) (s : State) : readReg r (serviceGetc s) = readReg r s := by
  rcases serviceGetc_cases s with h | ⟨b, q, h⟩ <;> simp [h, hr.symm]
@[simp] theorem serviceGetc_pc (s : State) : (serviceGetc s).pc = s.pc := by
  rcases serviceGetc_cases s with h | ⟨b, q, h⟩ <;> simp [h]
@[simp] theorem serviceGetc_run (s : State) : (serviceGetc s).run = s.run := by
  rcases serviceGetc_cases s with h | ⟨b, q, h⟩ <;> simp [h]

theorem readReg_inAfterPrompt {r : RegIx} (hr : r ≠ 0#3) (s : State) :
    readReg r (inAfterPrompt s) = readReg r s := by
  rcases inAfterPrompt_cases s with h | ⟨b, q, h⟩ <;> simp [h, hr.symm]
@[simp] theorem inAfterPrompt_pc (s : State) : (inAfterPrompt s).pc = s.pc := by
  rcases inAfterPrompt_cases s with h | ⟨b, q, h⟩ <;> simp [h]
@[simp] theorem inAfterPrompt_run (s : State) : (inAfterPrompt s).run = s.run := by
  rcases inAfterPrompt_cases s with h | ⟨b, q, h⟩ <;> simp [h]

@[simp] theorem readReg_serviceString (r : RegIx) (packed : Bool) (s : State) :
    readReg r (serviceString packed s) = readReg r s := by
  rcases serviceString_cases packed s with ⟨bs, h⟩ | ⟨h, -⟩ <;> simp [h]
@[simp] theorem serviceString_pc (packed : Bool) (s : State) : (serviceString packed s).pc = s.pc := by
  rcases serviceString_cases packed s with ⟨bs, h⟩ | ⟨h, -⟩ <;> simp [h]
@[simp] theorem serviceString_cc (packed : Bool) (s : State) : (serviceString packed s).cc = s.cc := by
  rcases serviceString_cases packed s with ⟨bs, h⟩ | ⟨h, -⟩ <;> simp [h]
@[simp] theorem serviceString_run (packed : Bool) (s : State) : (serviceString packed s).run = s.run := by
  rcases serviceString_cases packed s with ⟨bs, h⟩ | ⟨h, -⟩ <;> simp [h]

@[simp] theorem readReg_walkStep (r : RegIx) (packed : Bool) (a : Word) (s : State) :
    readReg r (walkStep packed a s) = readReg r s := by
  unfold walkStep; split <;> simp
@[simp] theorem walkStep_run (packed : Bool) (a : Word) (s : State) : (walkStep packed a s).run = s.run := by
  unfold walkStep; split <;> simp

/-- A held cycle that goes on writes no register but R0 (R173). -/
theorem readReg_resume {r : RegIx} (hr : r ≠ 0#3) (h : Held) (s : State) : readReg r (resume h s) = readReg r s := by
  cases h with
  | getc => exact readReg_serviceGetc hr _
  | inPrompted => exact readReg_inAfterPrompt hr _
  | walk packed a => exact readReg_walkStep r packed a _

/-- A held cycle that goes on does not stop the machine. -/
@[simp] theorem resume_run (h : Held) (s : State) : (resume h s).run = s.run := by
  cases h with
  | getc => exact serviceGetc_run _
  | inPrompted => exact inAfterPrompt_run _
  | walk packed a => exact walkStep_run packed a _

/-- The dispatch (R170, R171): each vector has its service. -/
theorem service_cases (v : BitVec 8) (w : Word) :
    (v = 0x20#8 ∧ service v w = serviceGetc) ∨ (v = 0x21#8 ∧ service v w = serviceOut) ∨
    (v = 0x22#8 ∧ service v w = serviceString false) ∨ (v = 0x23#8 ∧ service v w = serviceIn) ∨
    (v = 0x24#8 ∧ service v w = serviceString true) ∨ (v = 0x25#8 ∧ service v w = serviceHalt) ∨
    service v w = serviceUndefined w := by
  by_cases hgetc : v = 0x20#8
  · exact .inl ⟨hgetc, by rw [hgetc]; rfl⟩
  by_cases hout : v = 0x21#8
  · exact .inr (.inl ⟨hout, by rw [hout]; rfl⟩)
  by_cases hputs : v = 0x22#8
  · exact .inr (.inr (.inl ⟨hputs, by rw [hputs]; rfl⟩))
  by_cases hin : v = 0x23#8
  · exact .inr (.inr (.inr (.inl ⟨hin, by rw [hin]; rfl⟩)))
  by_cases hputsp : v = 0x24#8
  · exact .inr (.inr (.inr (.inr (.inl ⟨hputsp, by rw [hputsp]; rfl⟩))))
  by_cases hhalt : v = 0x25#8
  · exact .inr (.inr (.inr (.inr (.inr (.inl ⟨hhalt, by rw [hhalt]; rfl⟩)))))
  refine .inr (.inr (.inr (.inr (.inr (.inr (funext fun s => ?_))))))
  rw [service, if_neg hgetc, if_neg hout, if_neg hputs, if_neg hin, if_neg hputsp, if_neg hhalt]

@[simp] theorem service_pc (v : BitVec 8) (w : Word) (s : State) : (service v w s).pc = s.pc := by
  rcases service_cases v w with ⟨-, e⟩ | ⟨-, e⟩ | ⟨-, e⟩ | ⟨-, e⟩ | ⟨-, e⟩ | ⟨-, e⟩ | e <;> rw [e]
  · exact serviceGetc_pc s
  · rfl
  · exact serviceString_pc false s
  · exact inAfterPrompt_pc _
  · exact serviceString_pc true s
  · rfl
  · rfl

/-- Of the services only GETC and IN write a register, R0 (R173). -/
theorem readReg_service {r : RegIx} {v : BitVec 8} (hr : v = 0x20#8 ∨ v = 0x23#8 → r ≠ 0#3) (w : Word)
    (s : State) : readReg r (service v w s) = readReg r s := by
  rcases service_cases v w with ⟨hgetc, e⟩ | ⟨-, e⟩ | ⟨-, e⟩ | ⟨hin, e⟩ | ⟨-, e⟩ | ⟨-, e⟩ | e <;> rw [e]
  · exact readReg_serviceGetc (hr (.inl hgetc)) s
  · rfl
  · exact readReg_serviceString r false s
  · exact readReg_inAfterPrompt (hr (.inr hin)) _
  · exact readReg_serviceString r true s
  · rfl
  · rfl

/-- Of the services only GETC and IN write `CC` (R31). -/
theorem service_cc {v : BitVec 8} (hv : ¬(v = 0x20#8 ∨ v = 0x23#8)) (w : Word) (s : State) :
    (service v w s).cc = s.cc := by
  rcases service_cases v w with ⟨hgetc, -⟩ | ⟨-, e⟩ | ⟨-, e⟩ | ⟨hin, -⟩ | ⟨-, e⟩ | ⟨-, e⟩ | e
  · exact absurd (.inl hgetc) hv
  · rw [e]; rfl
  · rw [e]; exact serviceString_cc false s
  · exact absurd (.inr hin) hv
  · rw [e]; exact serviceString_cc true s
  · rw [e]; rfl
  · rw [e]; rfl

end Sys2Proof.Machine
end

section
/-!
What `exec` leaves in `PC` and in the general registers (R22, R26).
-/
namespace Sys2Proof.Machine

/-- Settles O51: `PC` moves in the five control transfers alone, and JSRR reads its base after R7 is written. -/
theorem pcAfterEachInstruction : Obligations.PcAfterEachInstruction := by
  intro i s
  cases i with
  | br cond off9 => exact ⟨_, rfl, by simp only [pcAfter]; split <;> rfl⟩
  | jsrr ignHi base ignLo => exact ⟨_, rfl, by simp [pcAfter, eq_comm]⟩
  | _ => exact ⟨_, rfl, by simp [pcAfter, pcRelative]⟩

/-- A register write leaves every register but the one it names. -/
theorem readReg_writeReg_of_notMem {r i : RegIx} (h : r ∉ [i]) (v : Word) (s : State) :
    readReg r (writeReg i v s) = readReg r s := by
  rw [readReg_writeReg, if_neg (Ne.symm (List.ne_of_not_mem_cons h))]

theorem readReg_loadInto_of_notMem {r dr : RegIx} (h : r ∉ [dr]) (a : Word) (s : State) :
    readReg r (loadInto dr a s) = readReg r s :=
  (readReg_writeReg_of_notMem h _ (afterRead a s)).trans (readReg_afterRead r a s)

/-- R22: the registers an instruction may write are `mayWrite`. -/
theorem exec_readReg (i : Instr) (s : State) :
    ∃ t, exec i s = .next t ∧ ∀ r, r ∉ mayWrite i → readReg r t = readReg r s := by
  have link {r : RegIx} (h7 : r ∉ [7#3]) : readReg r (saveLink s) = readReg r s := readReg_writeReg_of_notMem h7 _ s
  cases i with
  | addReg | addImm | andReg | andImm | not | lea =>
    exact ⟨_, rfl, fun r hr => readReg_writeReg_of_notMem hr _ s⟩
  | ld | ldr => exact ⟨_, rfl, fun r hr => readReg_loadInto_of_notMem hr _ s⟩
  | ldi => exact ⟨_, rfl, fun r hr => (readReg_loadInto_of_notMem hr _ _).trans (readReg_afterRead r _ s)⟩
  | st | sti | str => exact ⟨_, rfl, fun r _ => by simp⟩
  | br cond off9 => exact ⟨_, rfl, fun r _ => by split <;> rfl⟩
  | jmp | ret | reserved8 | reserved13 => exact ⟨_, rfl, fun r _ => rfl⟩
  | jsr | jsrr | out | halt | trapUndefined => exact ⟨_, rfl, fun r hr => link hr⟩
  | puts | putsp => exact ⟨_, rfl, fun r hr => (readReg_serviceString r _ _).trans (link hr)⟩
  | getc =>
    exact ⟨_, rfl, fun r hr =>
      (readReg_serviceGetc (List.ne_of_not_mem_cons hr) _).trans (link (List.not_mem_of_not_mem_cons hr))⟩
  | inp =>
    exact ⟨_, rfl, fun r hr =>
      (readReg_inAfterPrompt (List.ne_of_not_mem_cons hr) _).trans (link (List.not_mem_of_not_mem_cons hr))⟩
  | trap ign v =>
    refine ⟨_, rfl, fun r hr => ?_⟩
    have h7 : r ∉ [7#3] := fun h => hr (by rw [mayWrite]; split <;> simp_all)
    have h0 : v = 0x20#8 ∨ v = 0x23#8 → r ≠ 0#3 := fun hv h => hr (by rw [h, mayWrite, if_pos hv]; decide)
    exact (readReg_service h0 _ _).trans (link h7)

/-- Settles O52. -/
theorem onlyNamedRegistersAreWritten : Obligations.OnlyNamedRegistersAreWritten :=
  ⟨exec_readReg, fun h s _ hr => readReg_resume hr h s⟩

end Sys2Proof.Machine
end

section
/-!
The condition register: who writes it and who reads it (R29, R31).
-/
namespace Sys2Proof.Machine

theorem writeRegCC_wrote (dr : RegIx) (v : Word) (s : State) : Wrote dr v (writeRegCC dr v s) :=
  ⟨by simp, by simp [flagOf_eq_signFlag]⟩

/-- `CC` is the flag of what `dr` now holds. -/
theorem Wrote.cc_eq {dr : RegIx} {v : Word} {t : State} (h : Wrote dr v t) : t.cc = signFlag (readReg dr t) := by
  obtain ⟨hreg, hcc⟩ := h
  rw [hcc, hreg]

/-- GETC that completes has set `CC` from R0. -/
theorem serviceGetc_cc {s : State} (h : (serviceGetc s).held = none) :
    (serviceGetc s).cc = signFlag (readReg 0#3 (serviceGetc s)) := by
  rcases serviceGetc_cases s with e | ⟨b, q, e⟩ <;> rw [e] at h ⊢
  · cases h
  · exact (writeRegCC_wrote _ _ _).cc_eq

/-- IN that completes has set `CC` from R0. -/
theorem inAfterPrompt_cc {s : State} (h : (inAfterPrompt s).held = none) :
    (inAfterPrompt s).cc = signFlag (readReg 0#3 (inAfterPrompt s)) := by
  rcases inAfterPrompt_cases s with e | ⟨b, q, e⟩ <;> rw [e] at h ⊢
  · cases h
  · exact (writeRegCC_wrote _ _ _).cc_eq

/-- The listed writers of `CC` (R31). -/
theorem exec_cc_of_writer {i : Instr} {dr : RegIx} (hi : flagRegister i = some dr) (s : State) :
    ∃ t, exec i s = .next t ∧ (t.held = none → t.cc = signFlag (readReg dr t)) := by
  cases i with
  | getc ign => cases hi; exact ⟨_, rfl, serviceGetc_cc⟩
  | inp ign => cases hi; exact ⟨_, rfl, inAfterPrompt_cc⟩
  | trap ign v =>
    rw [flagRegister, Option.ite_none_right_eq_some] at hi
    obtain ⟨rfl | rfl, hdr⟩ := hi <;> cases hdr
    · exact ⟨_, rfl, serviceGetc_cc⟩
    · exact ⟨_, rfl, inAfterPrompt_cc⟩
  | addReg | addImm | andReg | andImm | not | ld | ldi | ldr | lea =>
    cases hi; exact ⟨_, rfl, fun _ => (writeRegCC_wrote _ _ _).cc_eq⟩
  | _ => cases hi

/-- No other instruction writes `CC` (R31). -/
theorem exec_cc_of_not_writer {i : Instr} (hi : flagRegister i = none) (s : State) :
    ∃ t, exec i s = .next t ∧ t.cc = s.cc := by
  cases i with
  | br cond off9 => exact ⟨_, rfl, by split <;> rfl⟩
  | trap ign v =>
    have hv : ¬(v = 0x20#8 ∨ v = 0x23#8) := fun hv => by rw [flagRegister, if_pos hv] at hi; cases hi
    exact ⟨_, rfl, service_cc hv _ _⟩
  | addReg | addImm | andReg | andImm | not | ld | ldi | ldr | lea | getc | inp => cases hi
  | _ => exact ⟨_, rfl, by simp⟩

/-- `u` is `t` but for `CC`. -/
def SameButCC (t u : State) : Prop := u = { t with cc := u.cc }

/-- The state with `CC` replaced. -/
def setFlag (f : Flag) (s : State) : State := { s with cc := f }

@[simp] theorem setFlag_kbdQ (f : Flag) (s : State) : (setFlag f s).kbdQ = s.kbdQ := rfl
@[simp] theorem pcRelative_setFlag {n : Nat} (off : BitVec n) (f : Flag) (s : State) :
    pcRelative off (setFlag f s) = pcRelative off s := rfl

/-- A read does not look at `CC`. -/
theorem afterRead_setFlag (a : Word) (f : Flag) (s : State) :
    afterRead a (setFlag f s) = setFlag f (afterRead a s) := by
  unfold afterRead
  split
  · cases h : s.kbdQ with
    | nil => rw [poll_nil h, poll_nil (s := setFlag f s) h]; rfl
    | cons b q => rw [poll_cons h, poll_cons (s := setFlag f s) h]; rfl
  · rfl

theorem memRead_setFlag (a : Word) (f : Flag) (s : State) :
    memRead a (setFlag f s) = ((memRead a s).1, setFlag f (memRead a s).2) := by
  rw [memRead, afterRead_setFlag]; rfl

/-- A load writes `CC` whatever it held. -/
theorem loadInto_setFlag (dr : RegIx) (a : Word) (f : Flag) (s : State) :
    SameButCC (loadInto dr a s) (loadInto dr a (setFlag f s)) := by
  simp only [loadInto, memRead_setFlag]; rfl

theorem serviceGetc_setFlag (f : Flag) (s : State) :
    SameButCC (serviceGetc s) (serviceGetc (setFlag f s)) := by
  cases h : s.kbdQ with
  | nil => rw [serviceGetc_nil h, serviceGetc_nil (s := setFlag f s) h]; rfl
  | cons b q => rw [serviceGetc_cons h, serviceGetc_cons (s := setFlag f s) h]; rfl

theorem inAfterPrompt_setFlag (f : Flag) (s : State) :
    SameButCC (inAfterPrompt s) (inAfterPrompt (setFlag f s)) := by
  cases h : s.kbdQ with
  | nil => rw [inAfterPrompt_nil h, inAfterPrompt_nil (s := setFlag f s) h]; rfl
  | cons b q => rw [inAfterPrompt_cons h, inAfterPrompt_cons (s := setFlag f s) h]; rfl

theorem serviceString_setFlag (packed : Bool) (f : Flag) (s : State) :
    SameButCC (serviceString packed s) (serviceString packed (setFlag f s)) := by
  have hmem : (setFlag f s).mem = s.mem := rfl
  have hreg : readReg 0#3 (setFlag f s) = readReg 0#3 s := rfl
  unfold serviceString
  rw [hmem, hreg]
  cases stringBytes packed s.mem 65536 (readReg 0#3 s) <;> rfl

theorem service_setFlag (v : BitVec 8) (w : Word) (f : Flag) (s : State) :
    SameButCC (service v w s) (service v w (setFlag f s)) := by
  rcases service_cases v w with ⟨-, e⟩ | ⟨-, e⟩ | ⟨-, e⟩ | ⟨-, e⟩ | ⟨-, e⟩ | ⟨-, e⟩ | e <;> rw [e]
  · exact serviceGetc_setFlag f s
  · rfl
  · exact serviceString_setFlag false f s
  · exact inAfterPrompt_setFlag f (conPuts config.inPrompt s)
  · exact serviceString_setFlag true f s
  · rfl
  · rfl

/-- Only BR reads `CC` (R31). -/
theorem exec_setFlag {i : Instr} (hi : ∀ cond off9, i ≠ .br cond off9) (f : Flag) (s : State) :
    ∃ t u, exec i s = .next t ∧ exec i (setFlag f s) = .next u ∧ SameButCC t u := by
  cases i with
  | br cond off9 => exact absurd rfl (hi cond off9)
  | ld dr off9 => exact ⟨_, _, rfl, rfl, loadInto_setFlag dr (pcRelative off9 s) f s⟩
  | ldr dr base off6 => exact ⟨_, _, rfl, rfl, loadInto_setFlag dr (baseOffset base off6 s) f s⟩
  | ldi dr off9 =>
    exact ⟨_, _, rfl, by rw [exec_ldi, pcRelative_setFlag, memRead_setFlag],
      loadInto_setFlag dr (memRead (pcRelative off9 s) s).1 f (memRead (pcRelative off9 s) s).2⟩
  | sti sr off9 =>
    exact ⟨_, setFlag f _, rfl, by rw [exec_sti, pcRelative_setFlag, memRead_setFlag]; rfl, rfl⟩
  | trap ign v => exact ⟨_, _, rfl, rfl, service_setFlag v _ f (saveLink s)⟩
  | getc ign => exact ⟨_, _, rfl, rfl, serviceGetc_setFlag f (saveLink s)⟩
  | puts ign => exact ⟨_, _, rfl, rfl, serviceString_setFlag false f (saveLink s)⟩
  | inp ign => exact ⟨_, _, rfl, rfl, inAfterPrompt_setFlag f (conPuts config.inPrompt (saveLink s))⟩
  | putsp ign => exact ⟨_, _, rfl, rfl, serviceString_setFlag true f (saveLink s)⟩
  | _ => exact ⟨_, _, rfl, rfl, rfl⟩

/-- Settles O53: the three clauses are `exec_cc_of_writer`, `exec_cc_of_not_writer` and `exec_setFlag`. -/
theorem conditionRegisterWritersAndReader : Obligations.ConditionRegisterWritersAndReader :=
  ⟨fun _ s _ hi => exec_cc_of_writer hi s, fun _ s hi => exec_cc_of_not_writer hi s,
    fun _ s f hi => exec_setFlag hi f s⟩

end Sys2Proof.Machine
end

section
/-!
The decoder answers the most specific row of a word (log 4).
-/
namespace Sys2Proof

theorem decodeJmp_wellFormed (ignHi : BitVec 3) (base : RegIx) (ignLo : BitVec 6) :
    (decodeJmp ignHi base ignLo).WellFormed := by
  unfold decodeJmp
  split
  · rfl
  · next h => simpa [Instr.WellFormed, Instr.wellFormed] using h

theorem decodeTrap_wellFormed (ign : BitVec 4) (v : BitVec 8) : (decodeTrap ign v).WellFormed := by
  unfold decodeTrap
  iterate 6
    split
    · rfl
  simp only [Instr.WellFormed, Instr.wellFormed, definedVector, Bool.not_eq_true', Bool.or_eq_false_iff,
    beq_eq_false_iff_ne, ne_eq]
  simp only [*, not_false_eq_true, and_self]

theorem decode_wellFormed (w : Word) : (decode w).WellFormed := by
  unfold decode
  cases operationOf (opcodeOf w) with
  | none => dsimp only; split <;> rfl
  | some o =>
    cases o with
    | jmp => exact decodeJmp_wellFormed _ _ _
    | trap => exact decodeTrap_wellFormed _ _
    | add | and | jsr => dsimp only; split <;> rfl
    | _ => rfl

end Sys2Proof
end

section
/-!
What changes the run state (R34): HALT, the two reserved opcodes and the undefined vectors, and nothing else.
-/
namespace Sys2Proof.Machine

/-- The instructions that raise a fault (R232), apart from the generic TRAP row. -/
def RaisesFault (i : Instr) : Prop :=
  (∃ low, i = .reserved8 low) ∨ (∃ low, i = .reserved13 low) ∨ ∃ ign v, i = .trapUndefined ign v

/-- How an instruction read from a word leaves `RUN`. -/
theorem exec_run {i : Instr} (hi : i.WellFormed) (s : State) :
    ∃ t, exec i s = .next t ∧
      (t.run = s.run ∨ (t.run = .halted ∧ ∃ ign, i = .halt ign) ∨ (t.run = .faulted ∧ RaisesFault i)) := by
  cases i with
  | trap ign v => cases hi
  | halt ign => exact ⟨_, rfl, .inr (.inl ⟨rfl, ign, rfl⟩)⟩
  | reserved8 low => exact ⟨_, rfl, .inr (.inr ⟨rfl, .inl ⟨low, rfl⟩⟩)⟩
  | reserved13 low => exact ⟨_, rfl, .inr (.inr ⟨rfl, .inr (.inl ⟨low, rfl⟩)⟩)⟩
  | trapUndefined ign v => exact ⟨_, rfl, .inr (.inr ⟨rfl, .inr (.inr ⟨ign, v, rfl⟩)⟩)⟩
  | br cond off9 => exact ⟨_, rfl, .inl (by split <;> rfl)⟩
  | _ => exact ⟨_, rfl, .inl (by simp)⟩

@[simp] theorem afterFetch_run (s : State) : (afterFetch s).run = s.run := by simp [afterFetch]

/-- How a step of a running machine leaves `RUN`. -/
theorem step_run {s t : State} (hr : s.run = .running) (h : step s = .next t) :
    t.run = .running ∨
    (t.run = .halted ∧ s.held = none ∧ ∃ ign, decode (fetchedWord (keyboardTurn s)) = .halt ign) ∨
    (t.run = .faulted ∧ s.held = none ∧ RaisesFault (decode (fetchedWord (keyboardTurn s)))) := by
  cases hh : s.held with
  | some held =>
    rw [step_held hr hh] at h
    cases h
    exact .inl (by simp [hr])
  | none =>
    rw [step_cycle hr hh, cycle] at h
    obtain ⟨t', ht, hrun⟩ := exec_run (decode_wellFormed _) (afterFetch (keyboardTurn s))
    cases h.symm.trans ht
    rcases hrun with hrun | ⟨hrun, hi⟩ | ⟨hrun, hi⟩
    · exact .inl (by simp [hrun, hr])
    · exact .inr (.inl ⟨hrun, rfl, hi⟩)
    · exact .inr (.inr ⟨hrun, rfl, hi⟩)

/-- Settles O55: by `step_run`, and `step_stopped` for a machine that is not Running. -/
theorem runStateTransitions : Obligations.RunStateTransitions := by
  intro s t h
  refine ⟨fun hr => ?_, fun hr ht => ?_, fun hr ht => ?_⟩
  · rw [step_stopped hr] at h
    exact (Host.Outcome.next.inj h).symm
  · rcases step_run hr h with hrun | ⟨-, hhalt⟩ | ⟨hrun, -⟩
    · cases hrun.symm.trans ht
    · exact hhalt
    · cases hrun.symm.trans ht
  · rcases step_run hr h with hrun | ⟨hrun, -⟩ | ⟨-, hfault⟩
    · cases hrun.symm.trans ht
    · cases hrun.symm.trans ht
    · exact hfault

end Sys2Proof.Machine
end

section
/-!
Every step keeps the invariant. Between the start of a cycle and the end of its service the machine is in the middle of
a cycle: Running, no fault recorded, nothing held, though not everything emitted need be flushed. Every operation of an
instruction keeps that, and each way a step can end makes the invariant of it.
-/
namespace Sys2Proof.Machine

/-- The machine in the middle of a cycle. -/
structure MidCycle (s : State) : Prop where
  memory : s.mem.wf = true
  console : s.conFlushed ≤ s.conOut.length
  running : s.run = .running
  noFault : s.faultCause = .none
  noInfo : s.faultInfo = 0x0000#16
  notHeld : s.held = none

/-- At reset the machine is about to start a cycle. -/
theorem midCycle_reset : MidCycle State.reset :=
  ⟨rfl, Nat.le_refl 0, rfl, rfl, rfl, rfl⟩

/-- A running machine with its hold released is in the middle of a cycle. -/
theorem Invariant.midCycle_release {s : State} (hi : Invariant s) (hr : s.run = .running) : MidCycle (release s) := by
  have hcause : s.faultCause = .none := by
    refine Decidable.byContradiction fun hc => ?_
    cases hr.symm.trans (hi.faulted.mpr hc)
  exact ⟨hi.memory, hi.console, hr, hcause, hi.noInfo hcause, rfl⟩

/-- A running machine that holds no cycle is about to start one. -/
theorem Invariant.midCycle {s : State} (hi : Invariant s) (hr : s.run = .running) (hh : s.held = none) : MidCycle s :=
  { hi.midCycle_release hr with notHeld := hh }

/-- The keyboard's turn keeps the invariant, in every run state (R205). -/
theorem Invariant.keyboardTurn {s : State} (hi : Invariant s) : Invariant (keyboardTurn s) := by
  rw [keyboardTurn_eq]
  exact { hi with }

/-- A read emits nothing and flushes nothing. -/
theorem Flushed.afterRead {s : State} (hf : Flushed s) (a : Word) : Flushed (afterRead a s) := by
  simpa [Flushed] using hf

theorem Flushed.loadInto {s : State} (hf : Flushed s) (dr : RegIx) (a : Word) : Flushed (loadInto dr a s) :=
  hf.afterRead a

namespace MidCycle

variable {s : State} (hm : MidCycle s)
include hm

/- The operations of an instruction. -/

theorem writeReg (r : RegIx) (v : Word) : MidCycle (writeReg r v s) := { hm with }
theorem setPc (a : Word) : MidCycle (setPc a s) := { hm with }
theorem setcc (v : Word) : MidCycle (setcc v s) := { hm with }
theorem setQueue (q : List Byte) : MidCycle (setQueue q s) := { hm with }
theorem conFlush : MidCycle (conFlush s) := { hm with console := Nat.le_refl _ }
theorem poke (a v : Word) : MidCycle (poke a v s) := { hm with memory := poke_wf hm.memory a v }

theorem conPuts (bs : List Byte) : MidCycle (conPuts bs s) :=
  { hm with console := Nat.le_trans hm.console (by simp) }

theorem afterRead (a : Word) : MidCycle (afterRead a s) :=
  ⟨afterRead_wf hm.memory a, by simpa using hm.console, by simpa using hm.running, by simpa using hm.noFault,
    by simpa using hm.noInfo, by simpa using hm.notHeld⟩

theorem loadInto (dr : RegIx) (a : Word) : MidCycle (loadInto dr a s) :=
  ((hm.afterRead a).writeReg dr _).setcc _

/- The ways a step can end. -/

/-- The cycle completes. -/
theorem invariant_of_flushed (hf : Flushed s) : Invariant s where
  memory := hm.memory
  console := hm.console
  flushed _ := hf
  faulted := by simp [hm.running, hm.noFault]
  noInfo _ := hm.noInfo
  illegalWord h := by cases hm.noFault.symm.trans h
  trapWord h := by cases hm.noFault.symm.trans h
  heldRuns _ := hm.running
  endless _ _ h := by cases hm.notHeld.symm.trans h

/-- The cycle is held open: GETC with everything flushed, a walk over a memory with no zero cell. -/
theorem invariant_hold {h : Held} (hgetc : h = .getc → Flushed s)
    (hwalk : ∀ packed a, h = .walk packed a → ∀ c, peek c s ≠ 0x0000#16) : Invariant (hold h s) where
  memory := hm.memory
  console := hm.console
  flushed hh := hgetc (by simpa using hh)
  faulted := by simp [hm.running, hm.noFault]
  noInfo _ := hm.noInfo
  illegalWord h := by cases hm.noFault.symm.trans h
  trapWord h := by cases hm.noFault.symm.trans h
  heldRuns _ := hm.running
  endless packed a hh := hwalk packed a (Option.some.inj hh)

/-- The machine halts. -/
theorem invariant_stopRunning (hf : Flushed s) : Invariant (stopRunning s) :=
  { hm.invariant_of_flushed hf with
    faulted := by simp [hm.noFault]
    heldRuns := fun h => absurd hm.notHeld h }

/-- The machine faults, with a word of the right kind (R232). -/
theorem invariant_raiseFault (hf : Flushed s) {cause : FaultCause} {w : Word} (hc : cause ≠ .none)
    (hillegal : cause = .illegalOpcode → opcodeOf w = 8#4 ∨ opcodeOf w = 13#4)
    (htrap : cause = .undefinedTrapVector → opcodeOf w = opcode .trap ∧ definedVector (field w 0 8) = false) :
    Invariant (raiseFault cause w s) :=
  { hm.invariant_of_flushed hf with
    faulted := by simp [hc]
    noInfo := fun h => absurd h hc
    illegalWord := hillegal
    trapWord := htrap
    heldRuns := fun h => absurd hm.notHeld h }

/- The services and the held cycles. -/

theorem invariant_serviceGetc (hf : Flushed s) : Invariant (serviceGetc s) := by
  rcases serviceGetc_cases s with e | ⟨b, q, e⟩ <;> rw [e]
  · exact hm.invariant_hold (fun _ => hf) nofun
  · exact (((hm.setQueue q).writeReg _ _).setcc _).invariant_of_flushed hf

/-- IN after its prompt: what it has emitted is flushed when the byte comes. -/
theorem invariant_inAfterPrompt : Invariant (inAfterPrompt s) := by
  rcases inAfterPrompt_cases s with e | ⟨b, q, e⟩ <;> rw [e]
  · exact hm.invariant_hold nofun nofun
  · exact (((hm.setQueue q).conPuts [b]).conFlush.writeReg _ _ |>.setcc _).invariant_of_flushed rfl

theorem invariant_serviceString (packed : Bool) : Invariant (serviceString packed s) := by
  rcases serviceString_cases packed s with ⟨bs, e⟩ | ⟨e, hz⟩ <;> rw [e]
  · exact (hm.conPuts bs).conFlush.invariant_of_flushed rfl
  · exact hm.invariant_hold nofun fun _ _ _ => hz

theorem invariant_walkStep (packed : Bool) (a : Word) (hz : ∀ c, peek c s ≠ 0x0000#16) :
    Invariant (walkStep packed a s) := by
  rw [walkStep, if_neg (hz a)]
  exact (hm.conPuts _).invariant_hold nofun fun _ _ _ => hz

/-- An instruction read from a word, run in the middle of a cycle with everything flushed, leaves the invariant. -/
theorem exec_invariant {i : Instr} (hi : i.WellFormed) (hf : Flushed s) : ∃ t, exec i s = .next t ∧ Invariant t := by
  have hlink : MidCycle (saveLink s) := hm.writeReg _ _
  cases i with
  | br cond off9 =>
    refine ⟨_, rfl, ?_⟩
    split
    · exact (hm.setPc _).invariant_of_flushed hf
    · exact hm.invariant_of_flushed hf
  | jmp | ret => exact ⟨_, rfl, (hm.setPc _).invariant_of_flushed hf⟩
  | jsr | jsrr => exact ⟨_, rfl, (hlink.setPc _).invariant_of_flushed hf⟩
  | ld dr off9 => exact ⟨_, rfl, (hm.loadInto dr _).invariant_of_flushed (hf.loadInto dr _)⟩
  | ldr dr base off6 => exact ⟨_, rfl, (hm.loadInto dr _).invariant_of_flushed (hf.loadInto dr _)⟩
  | ldi dr off9 =>
    exact ⟨_, rfl, ((hm.afterRead _).loadInto dr _).invariant_of_flushed ((hf.afterRead _).loadInto dr _)⟩
  | st | str => exact ⟨_, rfl, (hm.poke _ _).invariant_of_flushed hf⟩
  | sti sr off9 => exact ⟨_, rfl, ((hm.afterRead _).poke _ _).invariant_of_flushed (hf.afterRead _)⟩
  | trap ign v => cases hi
  | getc ign => exact ⟨_, rfl, hlink.invariant_serviceGetc hf⟩
  | out ign => exact ⟨_, rfl, (hlink.conPuts _).conFlush.invariant_of_flushed rfl⟩
  | puts ign => exact ⟨_, rfl, hlink.invariant_serviceString false⟩
  | inp ign => exact ⟨_, rfl, (hlink.conPuts _).invariant_inAfterPrompt⟩
  | putsp ign => exact ⟨_, rfl, hlink.invariant_serviceString true⟩
  | halt ign => exact ⟨_, rfl, (hlink.conPuts _).conFlush.invariant_stopRunning rfl⟩
  | trapUndefined ign v =>
    have hv : definedVector v = false := by simpa [Instr.WellFormed, Instr.wellFormed] using hi
    exact ⟨_, rfl, hlink.invariant_raiseFault hf (by decide) nofun fun _ => by simp [encode, hv]⟩
  | reserved8 low => exact ⟨_, rfl, hm.invariant_raiseFault hf (by decide) (fun _ => by simp [encode]) nofun⟩
  | reserved13 low => exact ⟨_, rfl, hm.invariant_raiseFault hf (by decide) (fun _ => by simp [encode]) nofun⟩
  | addReg | addImm | andReg | andImm | not | lea =>
    exact ⟨_, rfl, ((hm.writeReg _ _).setcc _).invariant_of_flushed hf⟩

end MidCycle

/-- A held cycle that goes on keeps the invariant. -/
theorem Invariant.resume {s : State} {h : Held} (hi : Invariant s) (hh : s.held = some h) : Invariant (resume h s) := by
  have hm : MidCycle (release s) := hi.midCycle_release (hi.heldRuns (by simp [hh]))
  cases h with
  | getc => exact hm.invariant_serviceGetc (hi.flushed (.inr hh))
  | inPrompted => exact hm.invariant_inAfterPrompt
  | walk packed a => exact hm.invariant_walkStep packed a (hi.endless packed a hh)

/-- A cycle keeps the invariant. -/
theorem Invariant.cycle {s : State} (hi : Invariant s) (hr : s.run = .running) (hh : s.held = none) :
    ∃ t, cycle s = .next t ∧ Invariant t :=
  (((hi.midCycle hr hh).afterRead s.pc).setPc _).exec_invariant (decode_wellFormed _)
    (Flushed.afterRead (hi.flushed (.inl hh)) s.pc)

/-- Settles O49: the keyboard's turn keeps the invariant, and so do a held cycle that goes on and a cycle. -/
theorem stepKeepsTheInvariant : Obligations.StepKeepsTheInvariant := by
  intro s t hi h
  by_cases hr : s.run = .running
  · cases hh : s.held with
    | some held =>
      rw [step_held hr hh] at h
      cases h
      exact hi.keyboardTurn.resume (by simpa using hh)
    | none =>
      rw [step_cycle hr hh] at h
      obtain ⟨t', ht, hinv⟩ := hi.keyboardTurn.cycle (by simpa using hr) (by simpa using hh)
      cases h.symm.trans ht
      exact hinv
  · rw [step_stopped hr] at h
    cases h
    exact hi.keyboardTurn

/-- Settles O46: at reset the machine is about to start a cycle, with nothing emitted. -/
theorem resetStateMeetsTheInvariant : Obligations.ResetStateMeetsTheInvariant :=
  ⟨fun _ => rfl, rfl, rfl, rfl, rfl, rfl, rfl, midCycle_reset.invariant_of_flushed rfl⟩

end Sys2Proof.Machine
end

section
/-!
Reads and writes of memory: what a store and a poll change, and what they leave (R52, R53, R55).
-/
namespace Sys2Proof.Machine

/-- A state that differs from `s` in memory and keyboard queue alone keeps to a footprint of its cells and the queue. -/
theorem changesOnly_of_mem_kbdQ {cells : List Word} {keyboard : Bool} {s t : State}
    (hframe : t = { s with mem := t.mem, kbdQ := t.kbdQ }) (hcells : ∀ a, a ∉ cells → peek a t = peek a s)
    (hqueue : keyboard = false → t.kbdQ = s.kbdQ) : ChangesOnly { cells := cells, keyboard := keyboard } s t := by
  refine ⟨?_, hcells, ?_, ?_, ?_, ?_, hqueue, ?_, ?_, ?_⟩ <;> rw [hframe]
  · exact fun _ _ => rfl
  · exact fun _ => rfl
  · exact fun _ => rfl
  · exact fun _ => rfl
  · exact fun _ => ⟨rfl, rfl⟩
  · exact fun _ => ⟨rfl, rfl⟩
  · exact fun _ => rfl

theorem poke_changesOnly (a v : Word) (s : State) : ChangesOnly { cells := [a] } s (poke a v s) :=
  changesOnly_of_mem_kbdQ rfl (fun _ hc => peek_poke_ne (List.ne_of_not_mem_cons hc).symm v s) fun _ => rfl

/-- A read, polling or not, keeps to the two keyboard cells and the keyboard queue (R52). -/
theorem afterRead_changesOnly (a : Word) (s : State) :
    ChangesOnly { cells := [config.kbsrAddr, config.kbdrAddr], keyboard := true } s (afterRead a s) :=
  changesOnly_of_mem_kbdQ (afterRead_frame a s)
    (fun _ hc => peek_afterRead (List.ne_of_not_mem_cons hc)
      (List.ne_of_not_mem_cons (List.not_mem_of_not_mem_cons hc)) a s) nofun

/-- A poll that finds no byte leaves 0 in the status cell (R52). -/
theorem peek_status_poll_nil {s : State} (hwf : s.mem.wf = true) (hq : s.kbdQ = []) :
    peek config.kbsrAddr (poll s) = 0x0000#16 := by
  rw [poll_nil hq, peek_poke_self hwf]

/-- A poll that finds a byte leaves `KB_READY` in the status cell (R52): the data cell is another one (R7). -/
theorem peek_status_poll_cons {s : State} {b : Byte} {q : List Byte} (hwf : s.mem.wf = true) (hq : s.kbdQ = b :: q) :
    peek config.kbsrAddr (poll s) = config.kbReady := by
  have hne : config.kbdrAddr ≠ config.kbsrAddr := by decide
  rw [poll_cons hq, peek_poke_ne hne]
  exact peek_poke_self (s := setQueue q s) hwf _ _

/-- A poll that finds a byte leaves it in the data cell (R52). -/
theorem peek_data_poll_cons {s : State} {b : Byte} {q : List Byte} (hwf : s.mem.wf = true) (hq : s.kbdQ = b :: q) :
    peek config.kbdrAddr (poll s) = zext8 b := by
  rw [poll_cons hq]
  exact peek_poke_self (poke_wf (s := setQueue q s) hwf _ _) _ _

/-- Settles O18: what is read is the status cell as the poll leaves it. -/
theorem statusReadPollsTheKeyboard : Obligations.StatusReadPollsTheKeyboard := by
  intro s hwf
  rw [memRead_status]
  refine ⟨fun hq => ?_, fun b q hq => ?_, fun a ha => memRead_plain ha s⟩
  · have hstatus := peek_status_poll_nil hwf hq
    exact ⟨hstatus, hstatus, by rw [poll_nil hq]; exact poke_changesOnly _ _ s⟩
  · have hstatus := peek_status_poll_cons hwf hq
    exact ⟨hstatus, hstatus, peek_data_poll_cons hwf hq, by rw [poll_cons hq]; rfl,
      afterRead_changesOnly config.kbsrAddr s⟩

/-- Settles O19: a store reads back, and keeps to its cell. -/
theorem writeStoresWithoutSideEffect : Obligations.WriteStoresWithoutSideEffect := fun a v s hwf =>
  ⟨peek_poke_self hwf a v, poke_changesOnly a v s⟩

end Sys2Proof.Machine
end

section
/-!
Who writes memory (R52, R55, R173): stores write their cell, loads poll, and nothing else does either. And no
instruction and no step is without a next state (R51, R235).
-/
namespace Sys2Proof.Machine

@[simp] theorem serviceGetc_mem (s : State) : (serviceGetc s).mem = s.mem := by
  rcases serviceGetc_cases s with h | ⟨b, q, h⟩ <;> rw [h] <;> rfl
@[simp] theorem inAfterPrompt_mem (s : State) : (inAfterPrompt s).mem = s.mem := by
  rcases inAfterPrompt_cases s with h | ⟨b, q, h⟩ <;> rw [h] <;> rfl
@[simp] theorem serviceString_mem (packed : Bool) (s : State) : (serviceString packed s).mem = s.mem := by
  rcases serviceString_cases packed s with ⟨bs, h⟩ | ⟨h, -⟩ <;> rw [h] <;> rfl
@[simp] theorem walkStep_mem (packed : Bool) (a : Word) (s : State) : (walkStep packed a s).mem = s.mem := by
  unfold walkStep; split <;> rfl

/-- No service writes memory (R173). -/
@[simp] theorem service_mem (v : BitVec 8) (w : Word) (s : State) : (service v w s).mem = s.mem := by
  rcases service_cases v w with ⟨-, e⟩ | ⟨-, e⟩ | ⟨-, e⟩ | ⟨-, e⟩ | ⟨-, e⟩ | ⟨-, e⟩ | e <;> rw [e]
  · exact serviceGetc_mem s
  · rfl
  · exact serviceString_mem false s
  · exact inAfterPrompt_mem _
  · exact serviceString_mem true s
  · rfl
  · rfl

/-- A held cycle that goes on does not write memory (R173). -/
@[simp] theorem resume_mem (h : Held) (s : State) : (resume h s).mem = s.mem := by
  cases h with
  | getc => exact serviceGetc_mem _
  | inPrompted => exact inAfterPrompt_mem _
  | walk packed a => exact walkStep_mem packed a _

/-- Only loads and stores touch memory. -/
theorem exec_mem {i : Instr} (hload : isLoad i = false) (hstore : isStore i = false) (s : State) :
    ∃ t, exec i s = .next t ∧ t.mem = s.mem := by
  cases i with
  | ld | ldi | ldr => cases hload
  | st | sti | str => cases hstore
  | br cond off9 => exact ⟨_, rfl, by split <;> rfl⟩
  | getc ign => exact ⟨_, rfl, serviceGetc_mem _⟩
  | inp ign => exact ⟨_, rfl, inAfterPrompt_mem _⟩
  | puts | putsp => exact ⟨_, rfl, serviceString_mem _ _⟩
  | trap ign v => exact ⟨_, rfl, service_mem v _ _⟩
  | _ => exact ⟨_, rfl, rfl⟩

/-- Only stores change a cell other than the two keyboard cells: a load reads, and a read does not. -/
theorem exec_peek {i : Instr} (hstore : isStore i = false) (s : State) :
    ∃ t, exec i s = .next t ∧ ∀ a, a ≠ config.kbsrAddr → a ≠ config.kbdrAddr → peek a t = peek a s := by
  cases hload : isLoad i with
  | false =>
    obtain ⟨t, ht, hmem⟩ := exec_mem hload hstore s
    exact ⟨t, ht, fun a _ _ => congrArg (memGet · a.toNat) hmem⟩
  | true =>
    cases i with
    | ld | ldr => exact ⟨_, rfl, fun a hs hd => peek_afterRead hs hd _ s⟩
    | ldi => exact ⟨_, rfl, fun a hs hd => (peek_afterRead hs hd _ _).trans (peek_afterRead hs hd _ s)⟩
    | _ => cases hload

/-- Settles O54: by `exec_mem`, `resume_mem` and `exec_peek`; a load's register write leaves the memory its reads left. -/
theorem onlyStoresAndPollsWriteMemory : Obligations.OnlyStoresAndPollsWriteMemory :=
  ⟨fun _ s hload hstore => exec_mem hload hstore s, resume_mem,
    fun _ _ _ => ⟨_, rfl, rfl⟩, fun _ _ _ => ⟨_, rfl, rfl⟩, fun _ _ _ _ => ⟨_, rfl, rfl⟩,
    fun _ _ ha => if_neg ha, fun a _ s hs hd => peek_afterRead hs hd a s, fun _ s hstore => exec_peek hstore s⟩

theorem exec_next (i : Instr) (s : State) : ∃ t, exec i s = .next t := by
  cases i <;> exact ⟨_, rfl⟩

/-- A step is the keyboard's turn and then nothing, a held cycle that goes on, or a cycle. -/
theorem step_next (s : State) : ∃ t, step s = .next t := by
  by_cases hr : s.run = .running
  · cases hh : s.held with
    | some held => exact ⟨_, step_held hr hh⟩
    | none => rw [step_cycle hr hh]; exact exec_next _ _
  · exact ⟨_, step_stopped hr⟩

/-- Settles O50: `exec_next` for an instruction, `step_next` for a step. -/
theorem everyStepHasANextState : Obligations.EveryStepHasANextState := ⟨exec_next, step_next⟩

end Sys2Proof.Machine
end

section
/-!
Decoding and encoding (R80 to R91): a well-formed instruction and its word determine each other. The rows of the opcode
table, and the words that fault, are read off that.
-/
namespace Sys2Proof

/- Encode, then decode. -/

theorem decodeJmp_of_ne {base : RegIx} (h : base ≠ 7#3) (ignHi : BitVec 3) (ignLo : BitVec 6) :
    decodeJmp ignHi base ignLo = .jmp ignHi base ignLo :=
  if_neg h

/-- R89: the six vectors with a service are `x20` to `x25`. -/
theorem definedVector_eq_false_iff (v : BitVec 8) :
    definedVector v = false ↔ v.toNat < 0x20 ∨ 0x25 < v.toNat := by
  simp only [definedVector, Bool.or_eq_false_iff, beq_eq_false_iff_ne, ne_eq, BitVec.toNat_eq, BitVec.toNat_ofNat]
  omega

theorem trapUndefined_wellFormed_iff (ign : BitVec 4) (v : BitVec 8) :
    (Instr.trapUndefined ign v).WellFormed ↔ definedVector v = false := by
  simp [Instr.WellFormed, Instr.wellFormed]

theorem decodeTrap_of_not_defined {v : BitVec 8} (h : definedVector v = false) (ign : BitVec 4) :
    decodeTrap ign v = .trapUndefined ign v := by
  simp only [definedVector, Bool.or_eq_false_iff, beq_eq_false_iff_ne] at h
  simp only [decodeTrap, h, if_false]

/-- Every field of a format is read back where the format put it (R82). -/
theorem decode_encode {i : Instr} (hi : i.WellFormed) : decode (encode i) = i := by
  cases i with
  | jmp ignHi base ignLo =>
    have hbase : base ≠ 7#3 := by simpa [Instr.WellFormed, Instr.wellFormed] using hi
    simp [decode, encode, decodeJmp_of_ne hbase]
  | trap ign v => cases hi
  | trapUndefined ign v =>
    have hv : definedVector v = false := (trapUndefined_wellFormed_iff ign v).mp hi
    simp [decode, encode, decodeTrap_of_not_defined hv]
  | ret => simp [decode, encode, decodeJmp]
  | getc | out | puts | inp | putsp | halt => simp [decode, encode, decodeTrap]
  | _ => simp [decode, encode]

/- Decode, then encode. -/

/-- An opcode value that selects an operation is that operation's (R84). -/
theorem opcode_of_operationOf {c : BitVec 4} {o : Operation} (h : operationOf c = some o) : opcode o = c :=
  beq_iff_eq.mp (List.find?_some (p := fun o => opcode o == c) h)

/-- The values that `OPMAP` misses are 8 and 13 (R88). -/
theorem eq_8_or_13_of_operationOf {c : BitVec 4} (h : operationOf c = none) : c = 8#4 ∨ c = 13#4 := by
  revert c; decide

/-- JMP and RET have one format (R142, R143). -/
theorem encode_decodeJmp (ignHi : BitVec 3) (base : RegIx) (ignLo : BitVec 6) :
    encode (decodeJmp ignHi base ignLo) = formatBRO (opcode .jmp) ignHi base ignLo := by
  unfold decodeJmp
  split
  · next h => rw [h]; rfl
  · rfl

/-- The rows of TRAP have one format (R170). -/
theorem encode_decodeTrap (ign : BitVec 4) (v : BitVec 8) :
    encode (decodeTrap ign v) = formatTRAP (opcode .trap) ign v := by
  unfold decodeTrap
  iterate 6
    split
    · next h => rw [h]; rfl
  rfl

/-- Every bit of a word is in a field of its row (R91). -/
theorem encode_decode (w : Word) : encode (decode w) = w := by
  unfold decode
  cases h : operationOf (opcodeOf w) with
  | none =>
    dsimp only
    split
    · next h8 => exact (congrArg (formatRSV · _) h8.symm).trans (formatRSV_fields w)
    · next h8 =>
      have h13 : opcodeOf w = 13#4 := (eq_8_or_13_of_operationOf h).resolve_left h8
      exact (congrArg (formatRSV · _) h13.symm).trans (formatRSV_fields w)
  | some o =>
    have ho : opcode o = opcodeOf w := opcode_of_operationOf h
    cases o with
    | add | and =>
      dsimp only
      split <;> simp only [encode, ho]
      · next hmode => exact formatOPI_fields w hmode
      · next hmode => exact formatOPR_fields w ((BitVec.eq_zero_or_eq_one _).resolve_right hmode)
    | jsr =>
      dsimp only
      split <;> simp only [encode, ho]
      · next hmode => exact formatJSR_fields w hmode
      · next hmode => exact formatJSRR_fields w ((BitVec.eq_zero_or_eq_one _).resolve_right hmode)
    | jmp => simp only [encode_decodeJmp, ho, formatBRO_fields]
    | trap => simp only [encode_decodeTrap, ho, formatTRAP_fields]
    | not | ldr | str => simp only [encode, ho, formatBRO_fields]
    | br | ld | ldi | lea | st | sti => simp only [encode, ho, formatPCR_fields]

/-- Settles O1: the two round trips, and `decode_wellFormed`. -/
theorem decodeAndEncodeAgree : Obligations.DecodeAndEncodeAgree :=
  ⟨fun _ => decode_encode, fun w => ⟨decode_wellFormed w, encode_decode w⟩⟩

/-- A word is read as a well-formed instruction exactly if it is that instruction's word. -/
theorem decode_eq_iff {i : Instr} (hi : i.WellFormed) (w : Word) : decode w = i ↔ w = encode i :=
  ⟨fun h => by rw [← h, encode_decode], fun h => by rw [h, decode_encode hi]⟩

/- The rows of the opcode table. -/

/-- Settles O2: each pattern is the word that `encode` gives its row's instruction. -/
theorem tablePatternsDecode : Obligations.TablePatternsDecode := by
  refine ⟨fun d a b x => decode_encode (i := .addReg d a x b) rfl, fun d a i => decode_encode (i := .addImm d a i) rfl,
    fun d a b x => decode_encode (i := .andReg d a x b) rfl, fun d a i => decode_encode (i := .andImm d a i) rfl,
    fun d a x => decode_encode (i := .not d a x) rfl, fun c o => decode_encode (i := .br c o) rfl, fun h b l => ?jmp,
    fun o => decode_encode (i := .jsr o) rfl, fun h b l => decode_encode (i := .jsrr h b l) rfl,
    fun d o => decode_encode (i := .ld d o) rfl, fun d o => decode_encode (i := .ldi d o) rfl,
    fun d b o => decode_encode (i := .ldr d b o) rfl, fun d o => decode_encode (i := .lea d o) rfl,
    fun r o => decode_encode (i := .st r o) rfl, fun r o => decode_encode (i := .sti r o) rfl,
    fun r b o => decode_encode (i := .str r b o) rfl, fun x => ?services,
    fun x v hv => decode_encode (i := .trapUndefined x v)
      ((trapUndefined_wellFormed_iff x v).mpr ((definedVector_eq_false_iff v).mpr hv)),
    fun l => ⟨decode_encode (i := .reserved8 l) rfl, decode_encode (i := .reserved13 l) rfl⟩⟩
  case jmp =>
    rw [← decodeJmp, decode_eq_iff (decodeJmp_wellFormed h b l), encode_decodeJmp]
    rfl
  case services =>
    exact ⟨decode_encode (i := .getc x) rfl, decode_encode (i := .out x) rfl, decode_encode (i := .puts x) rfl,
      decode_encode (i := .inp x) rfl, decode_encode (i := .putsp x) rfl, decode_encode (i := .halt x) rfl⟩

/-- Settles O3. -/
theorem exampleWordsDecode : Obligations.ExampleWordsDecode := by
  unfold Obligations.ExampleWordsDecode
  decide

/- The words that fault, as numbers. -/

theorem opcodeOf_toNat (w : Word) : (opcodeOf w).toNat = w.toNat / 4096 := by
  simp only [opcodeOf, field, BitVec.extractLsb'_toNat, Nat.shiftRight_eq_div_pow]
  omega

theorem lowByteField_toNat (w : Word) : (field w 0 8).toNat = w.toNat % 256 := by
  simp [field, BitVec.extractLsb'_toNat]

/-- The words of format RSV with a given opcode value (R82). -/
theorem exists_eq_formatRSV_iff (c : BitVec 4) (w : Word) : (∃ low, w = formatRSV c low) ↔ opcodeOf w = c := by
  constructor
  · rintro ⟨low, rfl⟩
    exact formatRSV_opcode c low
  · rintro rfl
    exact ⟨_, (formatRSV_fields w).symm⟩

theorem decode_reserved8_iff (w : Word) : (∃ low, decode w = .reserved8 low) ↔ opcodeOf w = 8#4 :=
  (exists_congr fun low => decode_eq_iff (i := .reserved8 low) rfl w).trans (exists_eq_formatRSV_iff 8#4 w)

theorem decode_reserved13_iff (w : Word) : (∃ low, decode w = .reserved13 low) ↔ opcodeOf w = 13#4 :=
  (exists_congr fun low => decode_eq_iff (i := .reserved13 low) rfl w).trans (exists_eq_formatRSV_iff 13#4 w)

theorem decode_trapUndefined_iff (w : Word) :
    (∃ ign v, decode w = .trapUndefined ign v) ↔ opcodeOf w = opcode .trap ∧ definedVector (field w 0 8) = false := by
  constructor
  · rintro ⟨ign, v, h⟩
    have hi : (Instr.trapUndefined ign v).WellFormed := h ▸ decode_wellFormed w
    have hw : w = formatTRAP (opcode .trap) ign v := (decode_eq_iff hi w).mp h
    rw [hw, formatTRAP_opcode, formatTRAP_v]
    exact ⟨rfl, (trapUndefined_wellFormed_iff ign v).mp hi⟩
  · rintro ⟨hop, hv⟩
    have hw : w = formatTRAP (opcode .trap) (field w 8 4) (field w 0 8) := by rw [← hop, formatTRAP_fields]
    exact ⟨_, _, (decode_eq_iff ((trapUndefined_wellFormed_iff (field w 8 4) _).mpr hv) w).mpr hw⟩

/-- Settles O4: the opcode value is the word divided by 4096, and the vector its remainder by 256. -/
theorem faultingWordsAreTheseRanges : Obligations.FaultingWordsAreTheseRanges := by
  intro w
  have hlt : w.toNat < 65536 := w.isLt
  have htrap : (opcode .trap).toNat = 15 := rfl
  rw [decode_reserved8_iff, decode_reserved13_iff, decode_trapUndefined_iff, definedVector_eq_false_iff,
    lowByteField_toNat]
  simp only [← BitVec.toNat_inj, opcodeOf_toNat, htrap, BitVec.toNat_ofNat]
  omega

end Sys2Proof
end

section
/-!
The ignored bits and the reserved opcodes: what a recorded fault word can change (R87, R231, R233).
-/
namespace Sys2Proof.Machine

/-- `t` is `u` but for the recorded fault word, which differs only in a faulted machine. -/
def AgreeButFaultWord (t u : State) : Prop :=
  t = { u with faultInfo := t.faultInfo } ∧ (t.run ≠ .faulted → t = u)

theorem AgreeButFaultWord.refl (t : State) : AgreeButFaultWord t t := ⟨rfl, fun _ => rfl⟩

theorem raiseFault_agreeButFaultWord (cause : FaultCause) (w w' : Word) (s : State) :
    AgreeButFaultWord (raiseFault cause w s) (raiseFault cause w' s) :=
  ⟨rfl, fun h => absurd rfl h⟩

/-- A service looks at the instruction word only to record it (R182). -/
theorem service_agreeButFaultWord (v : BitVec 8) (w w' : Word) (s : State) :
    AgreeButFaultWord (service v w s) (service v w' s) := by
  unfold service
  iterate 6
    split
    · exact .refl _
  exact raiseFault_agreeButFaultWord _ w w' s

theorem exec_stripIgnored (i : Instr) (s : State) :
    ∃ t u, exec i s = .next t ∧ exec (stripIgnored i) s = .next u ∧ AgreeButFaultWord t u := by
  cases i with
  | trap ign v => exact ⟨_, _, rfl, rfl, service_agreeButFaultWord v _ _ _⟩
  | trapUndefined | reserved8 | reserved13 => exact ⟨_, _, rfl, rfl, raiseFault_agreeButFaultWord _ _ _ _⟩
  | _ => exact ⟨_, _, rfl, rfl, .refl _⟩

/-- Settles O5. -/
theorem ignoredBitsHaveNoEffect : Obligations.IgnoredBitsHaveNoEffect := exec_stripIgnored

theorem raiseFault_changesOnly (cause : FaultCause) (w : Word) (s : State) :
    ChangesOnly { run := true, fault := true } s (raiseFault cause w s) :=
  ⟨fun _ _ => rfl, fun _ _ => rfl, fun _ => rfl, fun _ => rfl, nofun, nofun, fun _ => rfl, fun _ => ⟨rfl, rfl⟩,
    fun _ => rfl, rfl⟩

/-- Settles O35: both rows raise the fault with their own word, and a fault touches nothing else. -/
theorem reservedOpcodeFaults : Obligations.ReservedOpcodeFaults := by
  rintro i s (⟨low, rfl⟩ | ⟨low, rfl⟩) <;> exact ⟨_, rfl, rfl, rfl, rfl, raiseFault_changesOnly _ _ s⟩

end Sys2Proof.Machine
end

section
/-!
The instruction cycle (R110 to R120): what a step at the start of a cycle runs, the fetch that polls, the word placed
for fetching, and the machine that no longer runs one.
-/
namespace Sys2Proof.Machine

/- Fetch, increment, decode, execute. -/

/-- A step at the start of a cycle, written out from `MemRead` on (R110 to R113). -/
theorem step_eq_exec_memRead {s : State} (hr : s.run = .running) (hh : s.held = none) :
    step s = exec (decode (memRead s.pc (keyboardTurn s)).1)
      (setPc (s.pc + 1#16) (memRead s.pc (keyboardTurn s)).2) := by
  rw [step_cycle hr hh, cycle, fetchedWord, afterFetch, incrementPc, keyboardTurn_pc, memRead_snd, afterRead_pc,
    keyboardTurn_pc]

/-- Away from `KBSR_ADDR` the fetch is a plain read, and the keyboard's arrivals do not touch the cell. -/
theorem step_eq_exec_peek {s : State} (hr : s.run = .running) (hh : s.held = none) (hpc : s.pc ≠ config.kbsrAddr) :
    step s = exec (decode (peek s.pc s)) (setPc (s.pc + 1#16) (keyboardTurn s)) := by
  rw [step_eq_exec_memRead hr hh, memRead_plain hpc, peek_keyboardTurn]

/-- Settles O41: by `step_eq_exec_memRead` and `step_eq_exec_peek`. -/
theorem stepRunsTheDecodedInstruction : Obligations.StepRunsTheDecodedInstruction := fun _ hr hh =>
  ⟨step_eq_exec_memRead hr hh, step_eq_exec_peek hr hh⟩

/- A word placed for fetching. -/

@[simp] theorem withFetchWord_pc (s : State) (n w : Nat) : (s.withFetchWord n w).pc = s.pc := rfl
@[simp] theorem withFetchWord_run (s : State) (n w : Nat) : (s.withFetchWord n w).run = .running := rfl
@[simp] theorem withFetchWord_held (s : State) (n w : Nat) : (s.withFetchWord n w).held = none := rfl

/-- The placed word is in the cell at `PC`. -/
theorem peek_withFetchWord {s : State} (hwf : s.mem.wf = true) (n w : Nat) :
    peek s.pc (s.withFetchWord n w) = BitVec.ofNat 16 w :=
  peek_poke_self hwf s.pc _

/-- A number that fits in a word is read as that word. -/
theorem decodeTableWord_of_lt {w : Nat} (hw : w < 65536) :
    decodeTableWord 16 w = some (decode (BitVec.ofNat 16 w)) := by
  simp [decodeTableWord, hw]

/-- Settles O44: the step fetches the cell at `PC`, which holds the placed word. -/
theorem placedWordIsTheNextInstruction : Obligations.PlacedWordIsTheNextInstruction := by
  intro s w hwf hw hpc
  refine ⟨_, decodeTableWord_of_lt hw, ?_⟩
  rw [step_eq_exec_peek (withFetchWord_run s 16 w) (withFetchWord_held s 16 w) hpc, withFetchWord_pc,
    peek_withFetchWord hwf]

/- The fetch that polls. -/

/-- A step that fetches from `KBSR_ADDR` polls and runs what the poll leaves in the status cell (R118). -/
theorem step_at_status {s : State} (hr : s.run = .running) (hh : s.held = none) (hpc : s.pc = config.kbsrAddr) :
    step s = exec (decode (peek config.kbsrAddr (poll (keyboardTurn s))))
      (setPc (config.kbsrAddr + 1#16) (poll (keyboardTurn s))) := by
  rw [step_eq_exec_memRead hr hh, hpc, memRead_status]

/-- What a poll leaves in the status cell when it finds no byte is a branch that names no flag. -/
theorem decode_zero : decode 0x0000#16 = .br 0b000#3 0#9 := by decide

/-- `KB_READY` at its default is a word with a reserved opcode value (logs 2 and 3). -/
theorem decode_kbReady : decode config.kbReady = .reserved8 0#12 := by decide

/-- A branch that names no flag is never taken (R141). -/
theorem exec_br_none (off9 : BitVec 9) (s : State) : exec (.br 0b000#3 off9) s = .next s := by
  simp [branchTaken]

/-- An instruction read from a reserved word faults with that word (R233). -/
theorem exec_decode_reserved8 {w : Word} {low : BitVec 12} (h : decode w = .reserved8 low) (s : State) :
    exec (decode w) s = .next (raiseFault .illegalOpcode w s) := by
  have hword : encode (.reserved8 low) = w := by rw [← h, encode_decode]
  rw [h, exec_reserved8, hword]

/-- A footprint followed by a write of `PC`. -/
theorem ChangesOnly.setPc {f : Footprint} {s t : State} (h : ChangesOnly f s t) (a : Word) :
    ChangesOnly { f with pc := true } s (setPc a t) := by
  obtain ⟨hregs, hcells, -, hrest⟩ := h
  exact ⟨hregs, hcells, nofun, hrest⟩

/-- A footprint followed by a fault (R231). -/
theorem ChangesOnly.raiseFault {f : Footprint} {s t : State} (h : ChangesOnly f s t) (cause : FaultCause) (w : Word) :
    ChangesOnly { f with run := true, fault := true } s (raiseFault cause w t) := by
  obtain ⟨hregs, hcells, hpc, hcc, -, -, hrest⟩ := h
  exact ⟨hregs, hcells, hpc, hcc, nofun, nofun, hrest⟩

/-- A poll that finds no byte keeps to the status cell (R52). -/
theorem poll_nil_changesOnly {s : State} (hq : s.kbdQ = []) :
    ChangesOnly { cells := [config.kbsrAddr] } s (poll s) := by
  rw [poll_nil hq]
  exact poke_changesOnly _ _ s

/-- A poll keeps to the two keyboard cells and the keyboard queue (R52). -/
theorem poll_changesOnly (s : State) :
    ChangesOnly { cells := [config.kbsrAddr, config.kbdrAddr], keyboard := true } s (poll s) :=
  afterRead_changesOnly config.kbsrAddr s

/-- Settles O42: the poll's answer decodes to a branch that names no flag, or to a reserved word. -/
theorem fetchFromKeyboardStatusPolls : Obligations.FetchFromKeyboardStatusPolls := by
  intro s hwf hr hh hpc
  have hwf' : (keyboardTurn s).mem.wf = true := by rwa [keyboardTurn_mem]
  rw [step_at_status hr hh hpc]
  constructor
  · intro hq
    have hstatus := peek_status_poll_nil hwf' hq
    rw [hstatus, decode_zero, exec_br_none]
    exact ⟨_, rfl, rfl, hstatus, (poll_nil_changesOnly hq).setPc _⟩
  · intro b q hq
    have hstatus := peek_status_poll_cons hwf' hq
    rw [hstatus, exec_decode_reserved8 decode_kbReady]
    exact ⟨_, rfl, rfl, rfl, rfl, rfl, hstatus, peek_data_poll_cons hwf' hq, by rw [poll_cons hq]; rfl,
      ((poll_changesOnly _).setPc _).raiseFault _ _⟩

/- A machine that has stopped. -/

/-- While the machine does not run, `k` steps are `k` turns of the keyboard (R120, R205). -/
theorem run_stopped {s : State} (hr : s.run ≠ .running) (k : Nat) :
    core.run k s =
      .next { s with kbdQ := s.kbdQ ++ (s.kbdInput.take k).flatten, kbdInput := s.kbdInput.drop k } := by
  induction k generalizing s with
  | zero => simp [Host.Core.run]
  | succ k ih =>
    rw [run_succ k (step_stopped hr), ih (by rwa [keyboardTurn_run]), keyboardTurn_eq]
    cases s.kbdInput <;> simp

/-- Settles O43: Halted and Faulted are the states that do not run. -/
theorem stoppedMachineIsFrozen : Obligations.StoppedMachineIsFrozen := by
  rintro s (hhalted | hfaulted) k
  · exact run_stopped (by simp [hhalted]) k
  · exact run_stopped (by simp [hfaulted]) k

end Sys2Proof.Machine
end

section
/-!
The operate instructions (R130 to R134): each is its word's reading, and each writes one register with its flag.
-/
namespace Sys2Proof.Machine

/-- A register written with its flag (R31): the operate instructions touch nothing else. -/
theorem writeRegCC_changesOnly (dr : RegIx) (v : Word) (s : State) :
    ChangesOnly { regs := [dr], cc := true } s (writeRegCC dr v s) :=
  ⟨fun _ hr => readReg_writeReg_of_notMem hr v s, fun _ _ => rfl, fun _ => rfl, nofun, fun _ => rfl,
    fun _ => ⟨rfl, rfl⟩, fun _ => rfl, fun _ => ⟨rfl, rfl⟩, fun _ => rfl, rfl⟩

/-- The shape of an operate instruction: whatever is known of the value is known of what the destination then holds. -/
theorem exec_writeRegCC_spec {i : Instr} {dr : RegIx} {v : Word} {s : State} {P : Word → Prop}
    (hexec : exec i s = .next (writeRegCC dr v s)) (hv : P v) :
    ∃ t u, exec i s = .next t ∧ P u ∧ Wrote dr u t ∧ ChangesOnly { regs := [dr], cc := true } s t :=
  ⟨_, v, hexec, hv, writeRegCC_wrote dr v s, writeRegCC_changesOnly dr v s⟩

/-- Settles O8: the sum of two words is the sum of their numbers modulo 2^16. -/
theorem addRegisterAddsModulo65536 : Obligations.AddRegisterAddsModulo65536 := fun dr sr1 ign sr2 s =>
  ⟨decode_encode (i := .addReg dr sr1 ign sr2) rfl,
    exec_writeRegCC_spec (exec_addReg dr sr1 ign sr2 s) (BitVec.toNat_add (readReg sr1 s) (readReg sr2 s))⟩

/-- Settles O9: as for O8, with the widened immediate as the second word. -/
theorem addImmediateAddsModulo65536 : Obligations.AddImmediateAddsModulo65536 := fun dr sr1 imm5 s =>
  ⟨decode_encode (i := .addImm dr sr1 imm5) rfl,
    exec_writeRegCC_spec (exec_addImm dr sr1 imm5 s) (BitVec.toNat_add (readReg sr1 s) (sext imm5))⟩

/-- Settles O10: a bit of the AND of two words is the AND of their bits. -/
theorem andRegisterIsBitwise : Obligations.AndRegisterIsBitwise := fun dr sr1 ign sr2 s =>
  ⟨decode_encode (i := .andReg dr sr1 ign sr2) rfl,
    exec_writeRegCC_spec (exec_andReg dr sr1 ign sr2 s) fun _ => BitVec.getLsbD_and⟩

/-- Settles O11: as for O10, with the widened immediate as the second word. -/
theorem andImmediateIsBitwise : Obligations.AndImmediateIsBitwise := fun dr sr1 imm5 s =>
  ⟨decode_encode (i := .andImm dr sr1 imm5) rfl,
    exec_writeRegCC_spec (exec_andImm dr sr1 imm5 s) fun _ => BitVec.getLsbD_and⟩

/-- Settles O12: the complement of a word is `2^16 - 1` less the word. -/
theorem notComplementsTheRegister : Obligations.NotComplementsTheRegister := fun dr sr ign s =>
  ⟨decode_encode (i := .not dr sr ign) rfl, exec_writeRegCC_spec (exec_not dr sr ign s) BitVec.toNat_not⟩

end Sys2Proof.Machine
end

section
/-!
The control transfers (R140 to R145): each is its word's reading, and each writes `PC` or, for the linking ones, `R7` and
then `PC`.
-/
namespace Sys2Proof.Machine

/- What a jump and a linking jump change. -/

theorem ChangesOnly.refl (f : Footprint) (s : State) : ChangesOnly f s s :=
  ⟨fun _ _ => rfl, fun _ _ => rfl, fun _ => rfl, fun _ => rfl, fun _ => rfl, fun _ => ⟨rfl, rfl⟩, fun _ => rfl,
    fun _ => ⟨rfl, rfl⟩, fun _ => rfl, rfl⟩

theorem setPc_changesOnly (a : Word) (s : State) : ChangesOnly { pc := true } s (setPc a s) :=
  (ChangesOnly.refl {} s).setPc a

theorem writeReg_changesOnly (r : RegIx) (v : Word) (s : State) : ChangesOnly { regs := [r] } s (writeReg r v s) :=
  ⟨fun _ hr => readReg_writeReg_of_notMem hr v s, (ChangesOnly.refl {} s).2⟩

/-- The return address goes to R7 only (R144, R145). -/
theorem saveLink_changesOnly (s : State) : ChangesOnly { regs := [7#3] } s (saveLink s) :=
  writeReg_changesOnly 7#3 s.pc s

/-- The registers after the return address is saved: R7 holds it, and every other one its old value. -/
theorem readReg_saveLink (r : RegIx) (s : State) : readReg r (saveLink s) = if r = 7#3 then s.pc else readReg r s := by
  rw [saveLink_eq, readReg_writeReg]
  by_cases h : r = 7#3
  · rw [if_pos h, if_pos h.symm]
  · rw [if_neg h, if_neg (Ne.symm h)]

/-- The shape of JMP and RET: `PC` is the target, and nothing else changes. -/
theorem exec_setPc_spec {i : Instr} {a : Word} {s : State} (hexec : exec i s = .next (setPc a s)) :
    ∃ t, exec i s = .next t ∧ t.pc = a ∧ ChangesOnly { pc := true } s t :=
  ⟨_, hexec, rfl, setPc_changesOnly a s⟩

/-- The shape of JSR and JSRR: R7 holds the incremented `PC`, and `PC` is the target. -/
theorem exec_link_spec {i : Instr} {a : Word} {s : State} (hexec : exec i s = .next (setPc a (saveLink s))) :
    ∃ t, exec i s = .next t ∧ readReg 7#3 t = s.pc ∧ t.pc = a ∧ ChangesOnly { regs := [7#3], pc := true } s t :=
  ⟨_, hexec, readReg_saveLink 7#3 s, rfl, (saveLink_changesOnly s).setPc a⟩

/- The test of BR. -/

theorem branchTaken_iff (cond : BitVec 3) (s : State) : branchTaken cond s = true ↔ cond &&& ccmask s.cc ≠ 0#3 :=
  bne_iff_ne

/-- The mask of a flag picks one bit of `cond` (R30, D3): bit 2 for N, bit 1 for Z, bit 0 for P. -/
theorem and_ccmask_ne_zero_iff (cond : BitVec 3) (f : Flag) :
    cond &&& ccmask f ≠ 0#3 ↔
      (cond.getLsbD 2 = true ∧ f = .n) ∨ (cond.getLsbD 1 = true ∧ f = .z) ∨ (cond.getLsbD 0 = true ∧ f = .p) := by
  cases f <;> revert cond <;> decide

theorem branchTaken_none (s : State) : branchTaken 0b000#3 s = false := by
  simp [branchTaken]

theorem branchTaken_all (s : State) : branchTaken 0b111#3 s = true := by
  rw [branchTaken_iff, and_ccmask_ne_zero_iff]
  cases s.cc <;> decide

/- The five instructions. -/

/-- Settles O13: a taken branch is a jump, and one not taken is no change at all. -/
theorem branchAddsTheOffsetWhenAFlagMatches : Obligations.BranchAddsTheOffsetWhenAFlagMatches := by
  refine fun cond off9 s => ⟨decode_encode (i := .br cond off9) rfl, ?_⟩
  simp only [exec_br, branchTaken_iff]
  split
  · exact ⟨_, rfl, rfl, setPc_changesOnly _ s⟩
  · exact ⟨_, rfl, rfl, .refl _ s⟩

/-- Settles O14. -/
theorem branchConditionTable : Obligations.BranchConditionTable := fun cond s =>
  ⟨(branchTaken_iff cond s).trans (and_ccmask_ne_zero_iff cond s.cc), branchTaken_none s, branchTaken_all s⟩

/-- Settles O15: JMP and RET have one format, and both jump through a register. -/
theorem jumpAndReturnGoToTheRegister : Obligations.JumpAndReturnGoToTheRegister := by
  refine ⟨fun ignHi base ignLo s => ⟨?decode, exec_setPc_spec (exec_jmp ignHi base ignLo s)⟩,
    fun ignHi ignLo s => exec_setPc_spec (exec_ret ignHi ignLo s)⟩
  case decode =>
    exact (decode_eq_iff (decodeJmp_wellFormed ignHi base ignLo) _).mpr (encode_decodeJmp ignHi base ignLo).symm

/-- Settles O16. -/
theorem jsrSavesTheReturnAddress : Obligations.JsrSavesTheReturnAddress := fun off11 s =>
  ⟨decode_encode (i := .jsr off11) rfl, exec_link_spec (exec_jsr off11 s)⟩

/-- Settles O17: the base is read from the registers that `saveLink` leaves. -/
theorem jsrrReadsTheBaseAfterWritingR7 : Obligations.JsrrReadsTheBaseAfterWritingR7 := by
  refine fun ignHi base ignLo s => ⟨decode_encode (i := .jsrr ignHi base ignLo) rfl, ?_⟩
  rw [← readReg_saveLink]
  exact exec_link_spec (exec_jsrr ignHi base ignLo s)

end Sys2Proof.Machine
end

section
/-!
The loads, LEA and the stores (R150 to R156): each is its word's reading. A load or LEA writes one register with its flag
and a store writes one cell, in the state that the reads before it leave.
-/
namespace Sys2Proof.Machine

/-- The shape of the loads and LEA: the destination and `CC` are written in the state `u` that the reads leave. -/
theorem exec_load_spec {i : Instr} {dr : RegIx} {v : Word} {s u : State}
    (hexec : exec i s = .next (writeRegCC dr v u)) :
    ∃ t, exec i s = .next t ∧ Wrote dr v t ∧ ChangesOnly { regs := [dr], cc := true } u t :=
  ⟨_, hexec, writeRegCC_wrote dr v u, writeRegCC_changesOnly dr v u⟩

/-- The shape of the stores: one cell is written in the state `u` that the pointer read, if there is one, leaves. It reads
back if the memory stayed canonical up to there. -/
theorem exec_store_spec {i : Instr} {a v : Word} {s u : State} (hexec : exec i s = .next (memWrite a v u))
    (hwf : s.mem.wf = true → u.mem.wf = true) :
    ∃ t, exec i s = .next t ∧ (s.mem.wf = true → peek a t = v) ∧ ChangesOnly { cells := [a] } u t :=
  ⟨_, hexec, fun h => peek_poke_self (hwf h) a v, poke_changesOnly a v u⟩

/-- Settles O20. -/
theorem ldLoadsPcRelative : Obligations.LdLoadsPcRelative := fun dr off9 s =>
  ⟨decode_encode (i := .ld dr off9) rfl, exec_load_spec (exec_ld dr off9 s)⟩

/-- Settles O21: the datum is read in the state that the pointer's read leaves. -/
theorem ldiLoadsThroughThePointer : Obligations.LdiLoadsThroughThePointer := fun dr off9 s =>
  ⟨decode_encode (i := .ldi dr off9) rfl, exec_load_spec (exec_ldi dr off9 s)⟩

/-- Settles O22: the base is read in the state before, so it may be the destination. -/
theorem ldrLoadsBasePlusOffset : Obligations.LdrLoadsBasePlusOffset := fun dr base off6 s =>
  ⟨decode_encode (i := .ldr dr base off6) rfl, exec_load_spec (exec_ldr dr base off6 s)⟩

/-- Settles O23: there is no read, so the destination and `CC` are written in the state before. -/
theorem leaLoadsTheAddress : Obligations.LeaLoadsTheAddress := fun dr off9 s =>
  ⟨decode_encode (i := .lea dr off9) rfl, exec_load_spec (exec_lea dr off9 s)⟩

/-- Settles O24. -/
theorem stStoresPcRelative : Obligations.StStoresPcRelative := fun sr off9 s =>
  ⟨decode_encode (i := .st sr off9) rfl, exec_store_spec (exec_st sr off9 s) id⟩

/-- Settles O25: the pointer's read keeps the memory canonical, so the stored cell reads back. -/
theorem stiStoresThroughThePointer : Obligations.StiStoresThroughThePointer := fun sr off9 s =>
  ⟨decode_encode (i := .sti sr off9) rfl,
    exec_store_spec (exec_sti sr off9 s) fun hwf => afterRead_wf hwf (pcRelative off9 s)⟩

/-- Settles O26. -/
theorem strStoresBasePlusOffset : Obligations.StrStoresBasePlusOffset := fun sr base off6 s =>
  ⟨decode_encode (i := .str sr base off6) rfl, exec_store_spec (exec_str sr base off6 s) id⟩

end Sys2Proof.Machine
end

section
/-!
The trap services on the keyboard, the console and the run state (R170 to R182): each service is told by the state it
leaves, and what that state changes is read off the operations it is made of.
-/
namespace Sys2Proof.Machine

/- A footprint followed by one more operation. -/

namespace ChangesOnly

variable {f : Footprint} {s t : State} (h : ChangesOnly f s t)
include h

theorem allowConsole : ChangesOnly { f with console := true } s t := by
  obtain ⟨hregs, hcells, hpc, hcc, hrun, hfault, hkeyboard, -, hrest⟩ := h
  exact ⟨hregs, hcells, hpc, hcc, hrun, hfault, hkeyboard, nofun, hrest⟩

theorem conPuts (bs : List Byte) : ChangesOnly { f with console := true } s (conPuts bs t) := by
  obtain ⟨hregs, hcells, hpc, hcc, hrun, hfault, hkeyboard, -, hrest⟩ := h
  exact ⟨hregs, hcells, hpc, hcc, hrun, hfault, hkeyboard, nofun, hrest⟩

theorem conFlush : ChangesOnly { f with console := true } s (conFlush t) := by
  obtain ⟨hregs, hcells, hpc, hcc, hrun, hfault, hkeyboard, -, hrest⟩ := h
  exact ⟨hregs, hcells, hpc, hcc, hrun, hfault, hkeyboard, nofun, hrest⟩

theorem setQueue (q : List Byte) : ChangesOnly { f with keyboard := true } s (setQueue q t) := by
  obtain ⟨hregs, hcells, hpc, hcc, hrun, hfault, -, hrest⟩ := h
  exact ⟨hregs, hcells, hpc, hcc, hrun, hfault, nofun, hrest⟩

theorem hold (held : Held) : ChangesOnly { f with held := true } s (hold held t) := by
  obtain ⟨hregs, hcells, hpc, hcc, hrun, hfault, hkeyboard, hconsole, -, hinput⟩ := h
  exact ⟨hregs, hcells, hpc, hcc, hrun, hfault, hkeyboard, hconsole, nofun, hinput⟩

theorem release : ChangesOnly { f with held := true } s (release t) := by
  obtain ⟨hregs, hcells, hpc, hcc, hrun, hfault, hkeyboard, hconsole, -, hinput⟩ := h
  exact ⟨hregs, hcells, hpc, hcc, hrun, hfault, hkeyboard, hconsole, nofun, hinput⟩

theorem stopRunning : ChangesOnly { f with run := true } s (stopRunning t) := by
  obtain ⟨hregs, hcells, hpc, hcc, -, hrest⟩ := h
  exact ⟨hregs, hcells, hpc, hcc, nofun, hrest⟩

theorem writeRegCC (dr : RegIx) (v : Word) :
    ChangesOnly { f with regs := dr :: f.regs, cc := true } s (writeRegCC dr v t) := by
  obtain ⟨hregs, hcells, hpc, -, hrest⟩ := h
  refine ⟨fun r hr => ?_, hcells, hpc, nofun, hrest⟩
  rw [← hregs r (List.not_mem_of_not_mem_cons hr)]
  exact (readReg_writeReg r dr v t).trans (if_neg (List.ne_of_not_mem_cons hr).symm)

end ChangesOnly

/- The vector selects the row. -/

theorem service_of_not_defined {v : BitVec 8} (h : definedVector v = false) (w : Word) (s : State) :
    service v w s = serviceUndefined w s := by
  simp only [definedVector, Bool.or_eq_false_iff, beq_eq_false_iff_ne] at h
  simp only [service, h, if_false]

/-- The row of a TRAP word does what the dispatch does on its vector (R170, R171; log 4). -/
theorem exec_decodeTrap (ign : BitVec 4) (v : BitVec 8) (s : State) :
    exec (decodeTrap ign v) s = .next (service v (encode (.trap ign v)) (saveLink s)) := by
  cases h : definedVector v with
  | true =>
    simp only [definedVector, Bool.or_eq_true, beq_iff_eq] at h
    rcases h with ((((rfl | rfl) | rfl) | rfl) | rfl) | rfl <;> rfl
  | false =>
    rw [decodeTrap_of_not_defined h, service_of_not_defined h]
    rfl

/-- Settles O27: the row in the statement is `decodeTrap`'s, with the vector compared as a number. -/
theorem trapDispatchesByItsVector : Obligations.TrapDispatchesByItsVector := by
  intro ign v s
  have hrow := exec_decodeTrap ign v s
  simp only [decodeTrap, ← BitVec.toNat_inj] at hrow
  exact ⟨_, exec_trap ign v s, (readReg_service (fun _ => by decide) _ _).trans (readReg_saveLink 7#3 s), hrow⟩

/- OUT, HALT and the undefined vectors. -/

theorem lowByte_toNat (v : Word) : (lowByte v).toNat = v.toNat % 256 := lowByteField_toNat v

/-- Settles O29. -/
theorem outWritesTheLowByte : Obligations.OutWritesTheLowByte := by
  refine fun ign s => ⟨decode_encode (i := .out ign) rfl, _, _, exec_out ign s, lowByte_toNat _, ?_, rfl,
    readReg_saveLink 7#3 s, ((saveLink_changesOnly s).conPuts _).conFlush⟩
  rw [serviceOut_eq, readReg_saveLink]
  rfl

/-- Settles O33. -/
theorem haltEmitsTheNoticeAndStops : Obligations.HaltEmitsTheNoticeAndStops := fun ign s =>
  ⟨_, exec_halt ign s, rfl, rfl, rfl, readReg_saveLink 7#3 s,
    ((saveLink_changesOnly s).conPuts _).conFlush.stopRunning⟩

/-- Settles O34: the fault is raised in the state in which R7 is written. -/
theorem undefinedVectorFaultsAfterWritingR7 : Obligations.UndefinedVectorFaultsAfterWritingR7 := fun ign v s =>
  ⟨_, exec_trapUndefined ign v s, rfl, rfl, rfl, readReg_saveLink 7#3 s, (saveLink_changesOnly s).raiseFault _ _⟩

/- GETC and IN. -/

theorem exec_getc_nil {s : State} (hq : s.kbdQ = []) (ign : BitVec 4) :
    exec (.getc ign) s = .next (hold .getc (saveLink s)) :=
  congrArg _ (serviceGetc_nil (s := saveLink s) hq)

theorem exec_getc_cons {s : State} {b : Byte} {q : List Byte} (hq : s.kbdQ = b :: q) (ign : BitVec 4) :
    exec (.getc ign) s = .next (receive b (setQueue q (saveLink s))) :=
  congrArg _ (serviceGetc_cons (s := saveLink s) hq)

theorem exec_inp_nil {s : State} (hq : s.kbdQ = []) (ign : BitVec 4) :
    exec (.inp ign) s = .next (hold .inPrompted (conPuts config.inPrompt (saveLink s))) :=
  congrArg _ (inAfterPrompt_nil (s := conPuts config.inPrompt (saveLink s)) hq)

theorem exec_inp_cons {s : State} {b : Byte} {q : List Byte} (hq : s.kbdQ = b :: q) (ign : BitVec 4) :
    exec (.inp ign) s =
      .next (receive b (conFlush (conPut b (setQueue q (conPuts config.inPrompt (saveLink s)))))) :=
  congrArg _ (inAfterPrompt_cons (s := conPuts config.inPrompt (saveLink s)) hq)

theorem receive_wrote (b : Byte) (s : State) : Wrote 0#3 (zext8 b) (receive b s) := writeRegCC_wrote _ _ s

/-- A byte as a word is below 32,768, so its flag is never Negative (R174, R179). -/
theorem receive_cc_ne (b : Byte) (s : State) : (receive b s).cc ≠ .n := by
  obtain ⟨-, hcc⟩ := receive_wrote b s
  have hsmall : ¬ 32768 ≤ b.toNat := by omega
  rw [hcc, signFlag, zext8_toNat, if_neg hsmall]
  split <;> nofun

/-- Taking a byte leaves every register but R0. -/
theorem readReg_receive {r : RegIx} (hr : r ≠ 0#3) (b : Byte) (s : State) : readReg r (receive b s) = readReg r s := by
  simp [hr.symm]

/-- Settles O28: by the two cases of the queue. -/
theorem getcTakesTheNextByte : Obligations.GetcTakesTheNextByte := by
  refine fun ign s => ⟨decode_encode (i := .getc ign) rfl, fun b q hq => ?pending, fun hq => ?blocked⟩
  case pending =>
    exact ⟨_, exec_getc_cons hq ign, receive_wrote b _, receive_cc_ne b _,
      (readReg_receive (by decide) b _).trans (readReg_saveLink 7#3 s), rfl,
      ((saveLink_changesOnly s).setQueue q).writeRegCC _ _⟩
  case blocked =>
    exact ⟨_, exec_getc_nil hq ign, rfl, readReg_saveLink 7#3 s, (saveLink_changesOnly s).hold _⟩

/-- Settles O31: by the two cases of the queue. -/
theorem inPromptsEchoesAndTakesTheNextByte : Obligations.InPromptsEchoesAndTakesTheNextByte := by
  refine fun ign s => ⟨decode_encode (i := .inp ign) rfl, fun b q hq => ?pending, fun hq => ?blocked⟩
  case pending =>
    exact ⟨_, exec_inp_cons hq ign, rfl, rfl, receive_wrote b _, receive_cc_ne b _,
      (readReg_receive (by decide) b _).trans (readReg_saveLink 7#3 s), rfl,
      ((((saveLink_changesOnly s).conPuts _).setQueue q).conPuts _).conFlush.writeRegCC _ _⟩
  case blocked =>
    exact ⟨_, exec_inp_nil hq ign, rfl, rfl, rfl, readReg_saveLink 7#3 s,
      ((saveLink_changesOnly s).conPuts _).hold _⟩

/- A reader that is held. -/

/-- With nothing scheduled the keyboard's turn does nothing. -/
theorem keyboardTurn_of_nil {s : State} (h : s.kbdInput = []) : keyboardTurn s = s := by
  rw [keyboardTurn, h]

/-- A state that a step leaves as it is stays for ever. -/
theorem run_of_step_self {s : State} (h : step s = .next s) (k : Nat) : core.run k s = .next s := by
  induction k with
  | zero => rfl
  | succ k ih => rw [run_succ k h, ih]

/-- A held GETC waits on while nothing arrives (R176). -/
theorem step_hold_getc {s : State} (hr : s.run = .running) (hq : s.kbdQ = []) (hin : s.kbdInput = []) :
    step (hold .getc s) = .next (hold .getc s) := by
  rw [step_held (s := hold .getc s) hr rfl, keyboardTurn_of_nil (s := hold .getc s) hin]
  exact congrArg _ (serviceGetc_nil (s := release (hold .getc s)) hq)

/-- A held IN waits on while nothing arrives, without a second prompt (R176, R179). -/
theorem step_hold_inPrompted {s : State} (hr : s.run = .running) (hq : s.kbdQ = []) (hin : s.kbdInput = []) :
    step (hold .inPrompted s) = .next (hold .inPrompted s) := by
  rw [step_held (s := hold .inPrompted s) hr rfl, keyboardTurn_of_nil (s := hold .inPrompted s) hin]
  exact congrArg _ (inAfterPrompt_nil (s := release (hold .inPrompted s)) hq)

/-- Settles O36: the held state is one that a step leaves as it is. -/
theorem readersHoldWhileNothingArrives : Obligations.ReadersHoldWhileNothingArrives := by
  rintro i s (⟨ign, rfl⟩ | ⟨ign, rfl⟩) hr hq hin
  · exact ⟨_, exec_getc_nil hq ign, nofun, readReg_saveLink 7#3 s, fun _ => rfl, nofun,
      ((saveLink_changesOnly s).hold _).allowConsole,
      run_of_step_self (step_hold_getc (s := saveLink s) hr hq hin)⟩
  · exact ⟨_, exec_inp_nil hq ign, nofun, readReg_saveLink 7#3 s, nofun, fun _ => rfl,
      ((saveLink_changesOnly s).conPuts _).hold _,
      run_of_step_self (step_hold_inPrompted (s := conPuts config.inPrompt (saveLink s)) hr hq hin)⟩

/-- A held GETC takes the byte that the keyboard's turn leaves at the head of the queue (R174, R176). -/
theorem step_held_getc_cons {s : State} {b : Byte} {q : List Byte} (hr : s.run = .running)
    (hh : s.held = some .getc) (hq : (keyboardTurn s).kbdQ = b :: q) :
    step s = .next (receive b (setQueue q (release (keyboardTurn s)))) := by
  rw [step_held hr hh]
  exact congrArg _ (serviceGetc_cons (s := release (keyboardTurn s)) hq)

/-- A held IN echoes that byte, flushes and takes it (R176, R179). -/
theorem step_held_inPrompted_cons {s : State} {b : Byte} {q : List Byte} (hr : s.run = .running)
    (hh : s.held = some .inPrompted) (hq : (keyboardTurn s).kbdQ = b :: q) :
    step s = .next (receive b (conFlush (conPut b (setQueue q (release (keyboardTurn s)))))) := by
  rw [step_held hr hh]
  exact congrArg _ (inAfterPrompt_cons (s := release (keyboardTurn s)) hq)

/-- Settles O37. -/
theorem arrivalLiftsTheHold : Obligations.ArrivalLiftsTheHold := by
  intro s b q hr hq
  have hrelease : ChangesOnly { held := true } (keyboardTurn s) (release (keyboardTurn s)) :=
    (ChangesOnly.refl {} _).release
  refine ⟨fun hh => ?getc, fun hh => ?inPrompted⟩
  case getc =>
    exact ⟨_, step_held_getc_cons hr hh hq, rfl, receive_wrote b _, rfl, (hrelease.setQueue q).writeRegCC _ _⟩
  case inPrompted =>
    exact ⟨_, step_held_inPrompted_cons hr hh hq, rfl, receive_wrote b _, rfl, by simp, rfl,
      ((hrelease.setQueue q).conPuts _).conFlush.writeRegCC _ _⟩

end Sys2Proof.Machine
end

section
/-!
The string services PUTS and PUTSP (R177, R178, R180): what they write, when they end, and that the walk cell by cell
does the same.
-/
namespace Sys2Proof.Machine

/- The bytes of a cell, as numbers. -/

theorem highByte_toNat (v : Word) : (highByte v).toNat = v.toNat / 256 := by
  rw [highByte, BitVec.extractLsb'_toNat, Nat.shiftRight_eq_div_pow]
  omega

theorem lowByte_eq_ofNat (v : Word) : lowByte v = BitVec.ofNat 8 (v.toNat % 256) := by
  rw [← lowByte_toNat, BitVec.ofNat_toNat, BitVec.setWidth_eq]

theorem highByte_eq_ofNat (v : Word) : highByte v = BitVec.ofNat 8 (v.toNat / 256) := by
  rw [← highByte_toNat, BitVec.ofNat_toNat, BitVec.setWidth_eq]

/-- What PUTS writes of a cell (R177). -/
theorem cellBytes_unpacked (c : Word) : cellBytes false c = [BitVec.ofNat 8 (c.toNat % 256)] := by
  rw [← lowByte_eq_ofNat]
  rfl

/-- What PUTSP writes of a cell (R180). -/
theorem cellBytes_packed (c : Word) :
    cellBytes true c = if c.toNat / 256 = 0 then [BitVec.ofNat 8 (c.toNat % 256)]
      else [BitVec.ofNat 8 (c.toNat % 256), BitVec.ofNat 8 (c.toNat / 256)] := by
  have hzero : highByte c = 0x00#8 ↔ c.toNat / 256 = 0 := by
    rw [← BitVec.toNat_inj, highByte_toNat]
    rfl
  rw [cellBytes, ← lowByte_eq_ofNat, ← highByte_eq_ofNat]
  by_cases h : c.toNat / 256 = 0
  · simp [h, hzero.mpr h]
  · simp [h, mt hzero.mp h]

/-- Every cell writes at least its low byte. -/
theorem length_cellBytes_pos (packed : Bool) (c : Word) : 1 ≤ (cellBytes packed c).length := by
  rw [cellBytes]
  split <;> simp

/- Strings in memory. -/

theorem add_one_add_ofNat (a : Word) (i : Nat) : a + 1#16 + BitVec.ofNat 16 i = a + BitVec.ofNat 16 (i + 1) := by
  rw [BitVec.add_assoc, Nat.add_comm i 1, BitVec.ofNat_add]

theorem stringCells_succ (a : Word) (n : Nat) (s : State) :
    stringCells a (n + 1) s = peek a s :: stringCells (a + 1#16) n s := by
  simp [stringCells, List.range_succ_eq_map, add_one_add_ofNat]

/-- The empty string starts at its zero cell. -/
theorem StringAt.peek_eq_zero {a : Word} {s : State} (h : StringAt a 0 s) : peek a s = 0x0000#16 := by
  obtain ⟨-, -, hz⟩ := h
  simpa using hz

/-- A longer string starts with a non-zero cell. -/
theorem StringAt.peek_ne_zero {a : Word} {n : Nat} {s : State} (h : StringAt a (n + 1) s) : peek a s ≠ 0x0000#16 := by
  obtain ⟨-, hne, -⟩ := h
  simpa using hne 0 (Nat.succ_pos n)

/-- A longer string without its first cell is a string. -/
theorem StringAt.tail {a : Word} {n : Nat} {s : State} (h : StringAt a (n + 1) s) : StringAt (a + 1#16) n s := by
  obtain ⟨hn, hne, hz⟩ := h
  refine ⟨by omega, fun i hi => ?_, ?_⟩ <;> rw [add_one_add_ofNat]
  · exact hne (i + 1) (by omega)
  · exact hz

/-- Within 65,536 cells of a zero cell there is a string: it ends at the first zero cell. -/
theorem exists_stringAt_of_zero {m : Nat} {a : Word} {s : State} (hm : m < 65536)
    (hz : peek (a + BitVec.ofNat 16 m) s = 0x0000#16) : ∃ n, StringAt a n s := by
  induction m using Nat.strongRecOn with
  | ind m ih =>
    by_cases hearlier : ∃ i, i < m ∧ peek (a + BitVec.ofNat 16 i) s = 0x0000#16
    · obtain ⟨i, hi, hzi⟩ := hearlier
      exact ih i hi (Nat.lt_trans hi hm) hzi
    · exact ⟨m, hm, fun i hi hzi => hearlier ⟨i, hi, hzi⟩, hz⟩

/-- With a zero cell anywhere there is a string at every address (R178). -/
theorem exists_stringAt {s : State} (h : ∃ c, peek c s = 0x0000#16) (a : Word) : ∃ n, StringAt a n s := by
  obtain ⟨c, hc⟩ := h
  exact exists_stringAt_of_zero (c - a).isLt (by rwa [reach])

/-- R0 and the string it points to stay when the return address is saved. -/
theorem StringAt.saveLink {n : Nat} {s : State} (h : StringAt (readReg 0#3 s) n s) :
    StringAt (readReg 0#3 (saveLink s)) n (saveLink s) := by
  rw [readReg_saveLink]
  exact h

/- The services done in one step. -/

/-- PUTS and PUTSP on a string write the bytes of its cells and flush (R177, R180). -/
theorem serviceString_of_stringAt {n : Nat} {s : State} (h : StringAt (readReg 0#3 s) n s) (packed : Bool) :
    serviceString packed s =
      conFlush (conPuts ((stringCells (readReg 0#3 s) n s).flatMap (cellBytes packed)) s) := by
  obtain ⟨hn, hne, hz⟩ := h
  rw [serviceString_some hn hne hz, stringCells, List.flatMap_map]

theorem serviceString_saveLink {n : Nat} {s : State} (h : StringAt (readReg 0#3 s) n s) (packed : Bool) :
    serviceString packed (saveLink s) =
      conFlush (conPuts ((stringCells (readReg 0#3 s) n s).flatMap (cellBytes packed)) (saveLink s)) := by
  rw [serviceString_of_stringAt h.saveLink, readReg_saveLink]
  rfl

/-- The shape of PUTS and PUTSP: the bytes of the string's cells are written and flushed, and R7 is written. -/
theorem exec_string_spec {i : Instr} {packed : Bool} {n : Nat} {s : State}
    (hexec : exec i s = .next (serviceString packed (saveLink s))) (h : StringAt (readReg 0#3 s) n s) :
    ∃ t, exec i s = .next t ∧ t.conOut = s.conOut ++ (stringCells (readReg 0#3 s) n s).flatMap (cellBytes packed) ∧
      Flushed t ∧ readReg 7#3 t = s.pc ∧ ChangesOnly { regs := [7#3], console := true } s t := by
  rw [serviceString_saveLink h] at hexec
  exact ⟨_, hexec, rfl, rfl, readReg_saveLink 7#3 s, ((saveLink_changesOnly s).conPuts _).conFlush⟩

/-- Settles O30: each cell writes one byte. -/
theorem putsWritesTheString : Obligations.PutsWritesTheString := by
  intro ign n s h
  have hspec := exec_string_spec (exec_puts ign s) h
  rwa [funext cellBytes_unpacked, ← List.map_eq_flatMap] at hspec

/-- Settles O32. -/
theorem putspWritesThePackedString : Obligations.PutspWritesThePackedString := by
  intro ign n s h
  have hspec := exec_string_spec (exec_putsp ign s) h
  rwa [funext cellBytes_packed] at hspec

/-- PUTS and PUTSP are the string service after R7 is written. -/
theorem exec_eq_serviceString {i : Instr} (hi : (∃ ign, i = .puts ign) ∨ (∃ ign, i = .putsp ign)) (s : State) :
    ∃ packed, exec i s = .next (serviceString packed (saveLink s)) := by
  rcases hi with ⟨ign, rfl⟩ | ⟨ign, rfl⟩
  · exact ⟨false, exec_puts ign s⟩
  · exact ⟨true, exec_putsp ign s⟩

/-- Settles O38: the string ends at the first zero cell from R0 on. -/
theorem stringWalkEndsAtAZeroCell : Obligations.StringWalkEndsAtAZeroCell := by
  intro i s hi hz
  obtain ⟨packed, hexec⟩ := exec_eq_serviceString hi s
  obtain ⟨n, hn⟩ := exists_stringAt hz (readReg 0#3 s)
  rw [serviceString_saveLink hn] at hexec
  exact ⟨⟨n, hn⟩, _, hexec, rfl, rfl⟩

/- The walk, cell by cell. -/

theorem conPuts_nil (s : State) : conPuts [] s = s := by
  rw [conPuts, List.append_nil]

theorem conPuts_conPuts (bs bs' : List Byte) (s : State) : conPuts bs' (conPuts bs s) = conPuts (bs ++ bs') s := by
  simp only [conPuts, List.append_assoc]

/-- A held walk at a non-zero cell writes it out and goes on to the next (R177, R180). -/
theorem step_walk_of_ne {packed : Bool} {a : Word} {s : State} (hr : s.run = .running)
    (hh : s.held = some (.walk packed a)) (hne : peek a s ≠ 0x0000#16) :
    step s = .next (hold (.walk packed (a + 1#16)) (conPuts (cellBytes packed (peek a s)) (keyboardTurn s))) := by
  rw [step_held hr hh, resume, walkStep, peek_release, peek_keyboardTurn, if_neg hne]
  rfl

/-- A held walk at a zero cell flushes and completes the cycle (R177, R180). -/
theorem step_walk_of_eq {packed : Bool} {a : Word} {s : State} (hr : s.run = .running)
    (hh : s.held = some (.walk packed a)) (hz : peek a s = 0x0000#16) :
    step s = .next (conFlush (release (keyboardTurn s))) := by
  rw [step_held hr hh, resume, walkStep, peek_release, peek_keyboardTurn, if_pos hz]

/-- Over a memory with no zero cell a held walk goes on for ever, and each step writes at least one byte (R178). -/
theorem run_endless_walk (k : Nat) {packed : Bool} {a : Word} {s : State} (hr : s.run = .running)
    (hh : s.held = some (.walk packed a)) (hz : ∀ c, peek c s ≠ 0x0000#16) :
    ∃ u, core.run k s = .next u ∧ u.held ≠ none ∧ u.run = .running ∧ u.pc = s.pc ∧ u.mem = s.mem ∧
      s.conOut.length + k ≤ u.conOut.length := by
  induction k generalizing a s with
  | zero => exact ⟨s, rfl, by simp [hh], hr, rfl, rfl, Nat.le_refl _⟩
  | succ k ih =>
    have hpos := length_cellBytes_pos packed (peek a s)
    obtain ⟨u, hu, hheld, hrun, hpc, hmem, hlen⟩ := ih
      (s := hold (.walk packed (a + 1#16)) (conPuts (cellBytes packed (peek a s)) (keyboardTurn s)))
      (by simp [hr]) rfl (by simpa using hz)
    refine ⟨u, by rw [run_succ k (step_walk_of_ne hr hh (hz a)), hu], hheld, hrun, by simpa using hpc,
      by simpa using hmem, ?_⟩
    simp only [hold_conOut, conPuts_conOut, keyboardTurn_conOut, List.length_append] at hlen
    omega

/-- Settles O39. -/
theorem endlessStringWalkNeverCompletes : Obligations.EndlessStringWalkNeverCompletes := by
  intro i s hi hr hz
  obtain ⟨packed, hexec⟩ := exec_eq_serviceString hi s
  rw [serviceString_none (s := saveLink s) hz] at hexec
  exact ⟨_, hexec, fun k => run_endless_walk k hr rfl hz⟩

/-- The walk over a string writes the bytes of its cells, flushes and completes the cycle (R177, R180). -/
theorem run_walk (packed : Bool) {n : Nat} {a : Word} {s : State} (hr : s.run = .running) (hin : s.kbdInput = [])
    (h : StringAt a n s) :
    core.run (n + 1) (hold (.walk packed a) s) =
      .next (release (conFlush (conPuts ((stringCells a n s).flatMap (cellBytes packed)) s))) := by
  induction n generalizing a s with
  | zero =>
    rw [run_succ 0 (step_walk_of_eq (s := hold (.walk packed a) s) hr rfl h.peek_eq_zero),
      keyboardTurn_of_nil (s := hold (.walk packed a) s) hin, stringCells, List.range_zero, List.map_nil,
      List.flatMap_nil, conPuts_nil]
    rfl
  | succ n ih =>
    rw [run_succ (n + 1) (step_walk_of_ne (s := hold (.walk packed a) s) hr rfl h.peek_ne_zero),
      keyboardTurn_of_nil (s := hold (.walk packed a) s) hin, stringCells_succ, List.flatMap_cons, ← conPuts_conPuts]
    exact ih (s := conPuts (cellBytes packed (peek a s)) s) hr hin h.tail

/-- Settles O40: both are the bytes of the string's cells, flushed. -/
theorem walkLoopRefinesTheStringService : Obligations.WalkLoopRefinesTheStringService := by
  intro packed n s hr hin h
  rw [run_walk packed hr hin h, serviceString_of_stringAt h]

end Sys2Proof.Machine
end

section
/-!
The two device channels are queues (R205 to R211): the core puts no byte into the keyboard queue, takes bytes only from
its head, and does not change what the console log already holds.
-/
namespace Sys2Proof.Machine

/-- From `s` to `t` the keyboard's bytes are taken from the head, the console's are added at the end, and the arrivals
still to come are left alone. -/
def ChannelsInOrder (s t : State) : Prop :=
  t.kbdQ <:+ s.kbdQ ∧ s.conOut <+: t.conOut ∧ t.kbdInput = s.kbdInput

namespace ChannelsInOrder

theorem refl (s : State) : ChannelsInOrder s s := ⟨List.suffix_rfl, List.prefix_rfl, rfl⟩

theorem trans {s t u : State} (hst : ChannelsInOrder s t) (htu : ChannelsInOrder t u) : ChannelsInOrder s u := by
  obtain ⟨hq, hout, hin⟩ := hst
  obtain ⟨hq', hout', hin'⟩ := htu
  exact ⟨hq'.trans hq, hout.trans hout', hin'.trans hin⟩

/- The two channel operations: `KbdGet` (R207) and `ConPut` (R209). -/

theorem setQueue {s : State} {b : Byte} {q : List Byte} (h : s.kbdQ = b :: q) : ChannelsInOrder s (setQueue q s) :=
  ⟨h ▸ List.suffix_cons b q, List.prefix_rfl, rfl⟩

theorem conPuts (bs : List Byte) (s : State) : ChannelsInOrder s (conPuts bs s) :=
  ⟨List.suffix_rfl, List.prefix_append _ _, rfl⟩

/- The reads and the services. -/

theorem afterRead (a : Word) (s : State) : ChannelsInOrder s (afterRead a s) := by
  rcases afterRead_cases a s with e | ⟨-, -, e⟩ | ⟨-, b, q, hq, e⟩ <;> rw [e]
  · exact refl s
  · exact refl s
  · exact setQueue hq

theorem loadInto (dr : RegIx) (a : Word) (s : State) : ChannelsInOrder s (loadInto dr a s) := afterRead a s

theorem serviceGetc (s : State) : ChannelsInOrder s (serviceGetc s) := by
  cases h : s.kbdQ with
  | nil => rw [serviceGetc_nil h]; exact refl s
  | cons b q => rw [serviceGetc_cons h]; exact setQueue h

theorem inAfterPrompt (s : State) : ChannelsInOrder s (inAfterPrompt s) := by
  cases h : s.kbdQ with
  | nil => rw [inAfterPrompt_nil h]; exact refl s
  | cons b q => rw [inAfterPrompt_cons h]; exact (setQueue h).trans (conPuts [b] (Machine.setQueue q s))

theorem serviceIn (s : State) : ChannelsInOrder s (serviceIn s) :=
  (conPuts config.inPrompt s).trans (inAfterPrompt _)

theorem serviceString (packed : Bool) (s : State) : ChannelsInOrder s (serviceString packed s) := by
  rcases serviceString_cases packed s with ⟨bs, e⟩ | ⟨e, -⟩ <;> rw [e]
  · exact conPuts bs s
  · exact refl s

theorem walkStep (packed : Bool) (a : Word) (s : State) : ChannelsInOrder s (walkStep packed a s) := by
  unfold Machine.walkStep
  split
  · exact refl s
  · exact conPuts _ s

theorem service (v : BitVec 8) (w : Word) (s : State) : ChannelsInOrder s (service v w s) := by
  rcases service_cases v w with ⟨-, e⟩ | ⟨-, e⟩ | ⟨-, e⟩ | ⟨-, e⟩ | ⟨-, e⟩ | ⟨-, e⟩ | e <;> rw [e]
  · exact serviceGetc s
  · exact conPuts _ s
  · exact serviceString false s
  · exact serviceIn s
  · exact serviceString true s
  · exact conPuts _ s
  · exact refl s

theorem resume (h : Held) (s : State) : ChannelsInOrder s (resume h s) := by
  cases h with
  | getc => exact serviceGetc (release s)
  | inPrompted => exact inAfterPrompt (release s)
  | walk packed a => exact walkStep packed a (release s)

end ChannelsInOrder

/-- An instruction reaches the keyboard by its reads and both channels by its service, and by nothing else. -/
theorem exec_channelsInOrder (i : Instr) (s : State) : ∃ t, exec i s = .next t ∧ ChannelsInOrder s t := by
  cases i with
  | br cond off9 =>
    refine ⟨_, rfl, ?_⟩
    split <;> exact .refl s
  | ld dr | ldr dr => exact ⟨_, rfl, .loadInto dr _ s⟩
  | ldi dr off9 =>
    exact ⟨_, rfl, (ChannelsInOrder.afterRead (pcRelative off9 s) s).trans
      (.loadInto dr (memRead (pcRelative off9 s) s).1 (memRead (pcRelative off9 s) s).2)⟩
  | sti sr off9 => exact ⟨_, rfl, .afterRead (pcRelative off9 s) s⟩
  | trap ign v => exact ⟨_, rfl, .service v _ (saveLink s)⟩
  | getc ign => exact ⟨_, rfl, .serviceGetc (saveLink s)⟩
  | inp ign => exact ⟨_, rfl, .serviceIn (saveLink s)⟩
  | puts | putsp => exact ⟨_, rfl, .serviceString _ (saveLink s)⟩
  | out | halt => exact ⟨_, rfl, .conPuts _ (saveLink s)⟩
  | _ => exact ⟨_, rfl, .refl s⟩

/-- Whatever the run state, a step keeps the channels in order from the keyboard's turn on. -/
theorem step_channelsInOrder {s t : State} (h : step s = .next t) : ChannelsInOrder (keyboardTurn s) t := by
  by_cases hr : s.run = .running
  · cases hh : s.held with
    | some held =>
      cases h.symm.trans (step_held hr hh)
      exact .resume held _
    | none =>
      obtain ⟨u, hu, hchannels⟩ :=
        exec_channelsInOrder (decode (fetchedWord (keyboardTurn s))) (afterFetch (keyboardTurn s))
      cases (h.symm.trans (step_cycle hr hh)).trans hu
      exact (ChannelsInOrder.afterRead (keyboardTurn s).pc (keyboardTurn s)).trans hchannels
  · cases h.symm.trans (step_stopped hr)
    exact .refl _

/-- Settles O56: by `keyboardTurn_eq` and `step_channelsInOrder`. -/
theorem channelsAreQueues : Obligations.ChannelsAreQueues :=
  ⟨fun _ _ => rfl, keyboardTurn_eq, fun s _ h => by
    simpa only [ChannelsInOrder, keyboardTurn_eq s] using step_channelsInOrder h⟩

end Sys2Proof.Machine
end

section
/-!
The core never reads the console log (R211): every operation commutes with putting earlier, flushed output in front of
it.
-/
namespace Sys2Proof.Machine

/-- The state with `earlier` in front of the console log, as output already flushed. -/
def afterOutput (earlier : List Byte) (s : State) : State :=
  { s with conOut := earlier ++ s.conOut, conFlushed := earlier.length + s.conFlushed }

variable (earlier : List Byte)

@[simp] theorem afterOutput_pc (s : State) : (afterOutput earlier s).pc = s.pc := rfl
@[simp] theorem afterOutput_mem (s : State) : (afterOutput earlier s).mem = s.mem := rfl
@[simp] theorem readReg_afterOutput (r : RegIx) (s : State) : readReg r (afterOutput earlier s) = readReg r s := rfl
@[simp] theorem peek_afterOutput (a : Word) (s : State) : peek a (afterOutput earlier s) = peek a s := rfl
@[simp] theorem pcRelative_afterOutput {n : Nat} (off : BitVec n) (s : State) :
    pcRelative off (afterOutput earlier s) = pcRelative off s := rfl

/- The console operations and the reads. -/

theorem conPuts_afterOutput (bs : List Byte) (s : State) :
    conPuts bs (afterOutput earlier s) = afterOutput earlier (conPuts bs s) := by
  simp only [conPuts, afterOutput, List.append_assoc]

theorem conFlush_afterOutput (s : State) : conFlush (afterOutput earlier s) = afterOutput earlier (conFlush s) := by
  simp only [conFlush, afterOutput, List.length_append]

theorem keyboardTurn_afterOutput (s : State) :
    keyboardTurn (afterOutput earlier s) = afterOutput earlier (keyboardTurn s) := by
  rw [keyboardTurn_eq, keyboardTurn_eq]; rfl

theorem afterRead_afterOutput (a : Word) (s : State) :
    afterRead a (afterOutput earlier s) = afterOutput earlier (afterRead a s) := by
  unfold afterRead
  split
  · cases h : s.kbdQ with
    | nil => rw [poll_nil h, poll_nil (s := afterOutput earlier s) h]; rfl
    | cons b q => rw [poll_cons h, poll_cons (s := afterOutput earlier s) h]; rfl
  · rfl

theorem memRead_afterOutput (a : Word) (s : State) :
    memRead a (afterOutput earlier s) = ((memRead a s).1, afterOutput earlier (memRead a s).2) := by
  rw [memRead, afterRead_afterOutput]; rfl

theorem loadInto_afterOutput (dr : RegIx) (a : Word) (s : State) :
    loadInto dr a (afterOutput earlier s) = afterOutput earlier (loadInto dr a s) := by
  rw [loadInto, memRead_afterOutput]; rfl

/- The services. -/

theorem conFlush_conPuts_afterOutput (bs : List Byte) (s : State) :
    conFlush (conPuts bs (afterOutput earlier s)) = afterOutput earlier (conFlush (conPuts bs s)) := by
  rw [conPuts_afterOutput, conFlush_afterOutput]

theorem serviceGetc_afterOutput (s : State) :
    serviceGetc (afterOutput earlier s) = afterOutput earlier (serviceGetc s) := by
  cases h : s.kbdQ with
  | nil => rw [serviceGetc_nil h, serviceGetc_nil (s := afterOutput earlier s) h]; rfl
  | cons b q => rw [serviceGetc_cons h, serviceGetc_cons (s := afterOutput earlier s) h]; rfl

theorem inAfterPrompt_afterOutput (s : State) :
    inAfterPrompt (afterOutput earlier s) = afterOutput earlier (inAfterPrompt s) := by
  cases h : s.kbdQ with
  | nil => rw [inAfterPrompt_nil h, inAfterPrompt_nil (s := afterOutput earlier s) h]; rfl
  | cons b q =>
    rw [inAfterPrompt_cons h, inAfterPrompt_cons (s := afterOutput earlier s) h]
    exact congrArg (receive b) (conFlush_conPuts_afterOutput earlier [b] (setQueue q s))

theorem serviceIn_afterOutput (s : State) : serviceIn (afterOutput earlier s) = afterOutput earlier (serviceIn s) := by
  rw [serviceIn, conPuts_afterOutput, inAfterPrompt_afterOutput, serviceIn]

theorem serviceString_afterOutput (packed : Bool) (s : State) :
    serviceString packed (afterOutput earlier s) = afterOutput earlier (serviceString packed s) := by
  rw [serviceString, serviceString, afterOutput_mem, readReg_afterOutput]
  cases stringBytes packed s.mem 65536 (readReg 0#3 s) with
  | some bs => exact conFlush_conPuts_afterOutput earlier bs s
  | none => rfl

theorem walkStep_afterOutput (packed : Bool) (a : Word) (s : State) :
    walkStep packed a (afterOutput earlier s) = afterOutput earlier (walkStep packed a s) := by
  rw [walkStep, walkStep, peek_afterOutput]
  split
  · exact conFlush_afterOutput earlier s
  · exact congrArg (hold _) (conPuts_afterOutput earlier _ s)

theorem serviceHalt_afterOutput (s : State) :
    serviceHalt (afterOutput earlier s) = afterOutput earlier (serviceHalt s) :=
  congrArg stopRunning (conFlush_conPuts_afterOutput earlier config.haltNotice s)

theorem service_afterOutput (v : BitVec 8) (w : Word) (s : State) :
    service v w (afterOutput earlier s) = afterOutput earlier (service v w s) := by
  rcases service_cases v w with ⟨-, e⟩ | ⟨-, e⟩ | ⟨-, e⟩ | ⟨-, e⟩ | ⟨-, e⟩ | ⟨-, e⟩ | e <;> rw [e]
  · exact serviceGetc_afterOutput earlier s
  · exact conFlush_conPuts_afterOutput earlier _ s
  · exact serviceString_afterOutput earlier false s
  · exact serviceIn_afterOutput earlier s
  · exact serviceString_afterOutput earlier true s
  · exact serviceHalt_afterOutput earlier s
  · rfl

theorem resume_afterOutput (h : Held) (s : State) :
    resume h (afterOutput earlier s) = afterOutput earlier (resume h s) := by
  cases h with
  | getc => exact serviceGetc_afterOutput earlier (release s)
  | inPrompted => exact inAfterPrompt_afterOutput earlier (release s)
  | walk packed a => exact walkStep_afterOutput earlier packed a (release s)

/- Instructions and steps. -/

theorem fetchedWord_afterOutput (s : State) : fetchedWord (afterOutput earlier s) = fetchedWord s := by
  rw [fetchedWord, afterOutput_pc, memRead_afterOutput]; rfl

theorem afterFetch_afterOutput (s : State) :
    afterFetch (afterOutput earlier s) = afterOutput earlier (afterFetch s) := by
  rw [afterFetch, afterOutput_pc, memRead_afterOutput]; rfl

/-- No instruction reads the console log. -/
theorem exec_afterOutput (i : Instr) (s : State) :
    ∃ t, exec i s = .next t ∧ exec i (afterOutput earlier s) = .next (afterOutput earlier t) := by
  cases i with
  | br cond off9 => exact ⟨_, rfl, by rw [apply_ite (afterOutput earlier)]; rfl⟩
  | ld dr off9 => exact ⟨_, rfl, congrArg _ (loadInto_afterOutput earlier dr (pcRelative off9 s) s)⟩
  | ldr dr base off6 => exact ⟨_, rfl, congrArg _ (loadInto_afterOutput earlier dr (baseOffset base off6 s) s)⟩
  | ldi dr off9 =>
    refine ⟨_, rfl, ?_⟩
    rw [exec_ldi, pcRelative_afterOutput, memRead_afterOutput, loadInto_afterOutput]
  | sti sr off9 =>
    refine ⟨_, rfl, ?_⟩
    rw [exec_sti, pcRelative_afterOutput, memRead_afterOutput]
    rfl
  | trap ign v => exact ⟨_, rfl, congrArg _ (service_afterOutput earlier v _ (saveLink s))⟩
  | getc ign => exact ⟨_, rfl, congrArg _ (serviceGetc_afterOutput earlier (saveLink s))⟩
  | out ign => exact ⟨_, rfl, congrArg _ (conFlush_conPuts_afterOutput earlier _ (saveLink s))⟩
  | puts ign => exact ⟨_, rfl, congrArg _ (serviceString_afterOutput earlier false (saveLink s))⟩
  | inp ign => exact ⟨_, rfl, congrArg _ (serviceIn_afterOutput earlier (saveLink s))⟩
  | putsp ign => exact ⟨_, rfl, congrArg _ (serviceString_afterOutput earlier true (saveLink s))⟩
  | halt ign => exact ⟨_, rfl, congrArg _ (serviceHalt_afterOutput earlier (saveLink s))⟩
  | _ => exact ⟨_, rfl, rfl⟩

/-- No cycle reads the console log: the fetch does not, so the same instruction runs. -/
theorem cycle_afterOutput (s : State) :
    ∃ t, cycle s = .next t ∧ cycle (afterOutput earlier s) = .next (afterOutput earlier t) := by
  rw [cycle, cycle, fetchedWord_afterOutput, afterFetch_afterOutput]
  exact exec_afterOutput earlier _ _

/-- Settles O57: by the three forms of a step, each after the keyboard's turn. -/
theorem consoleLogIsNeverRead : Obligations.ConsoleLogIsNeverRead := by
  intro s earlier
  change ∃ t, step s = .next t ∧ step (afterOutput earlier s) = .next (afterOutput earlier t)
  by_cases hr : s.run = .running
  · cases hh : s.held with
    | some held =>
      refine ⟨_, step_held hr hh, ?_⟩
      rw [step_held (s := afterOutput earlier s) hr hh, keyboardTurn_afterOutput, resume_afterOutput]
    | none =>
      rw [step_cycle hr hh, step_cycle (s := afterOutput earlier s) hr hh, keyboardTurn_afterOutput]
      exact cycle_afterOutput earlier (keyboardTurn s)
  · refine ⟨_, step_stopped hr, ?_⟩
    rw [step_stopped (s := afterOutput earlier s) hr, keyboardTurn_afterOutput]

end Sys2Proof.Machine
end

section
/-!
The loader (R266 to R268): what the loop of R267 does to the memory, said for any bytes, and the words of an image one by
one. The boot (R265, R269, R270).
-/
namespace Sys2Proof.Machine

/-- R267: the word of two bytes as a number. -/
theorem wordOfBytes_toNat (high low : Byte) : (wordOfBytes high low).toNat = high.toNat * 256 + low.toNat := by
  rw [wordOfBytes, BitVec.toNat_append, ← Nat.shiftLeft_add_eq_or_of_lt low.isLt, Nat.shiftLeft_eq]

/- The loop of R267: its equations, and what they give for any bytes. -/

theorem loadWords_cons {a : Nat} (ha : a ≤ 65535) (high low : Byte) (rest : List Byte) (m : Memory) :
    loadWords (high :: low :: rest) a m = loadWords rest (a + 1) (memSet m a (wordOfBytes high low)) :=
  if_pos ha

theorem loadWords_above {a : Nat} (ha : ¬ a ≤ 65535) (high low : Byte) (rest : List Byte) (m : Memory) :
    loadWords (high :: low :: rest) a m = m :=
  if_neg ha

theorem loadWords_of_no_word (bytes : List Byte) (a : Nat) (m : Memory)
    (h : ∀ high low rest, bytes = high :: low :: rest → False) : loadWords bytes a m = m :=
  match bytes, h with
  | [], _ => rfl
  | [_], _ => rfl
  | high :: low :: rest, h => (h high low rest rfl).elim

theorem loadWords_wf (bytes : List Byte) (a : Nat) {m : Memory} (h : m.wf = true) :
    (loadWords bytes a m).wf = true := by
  induction bytes, a, m using loadWords.induct with
  | case1 high low rest a m ha ih =>
    rw [loadWords_cons ha]
    exact ih (Memory.wf_memSet h (by omega) _)
  | case2 high low rest a m ha => rwa [loadWords_above ha]
  | case3 bytes a m hshort => rwa [loadWords_of_no_word bytes a m hshort]

/-- The loop writes no cell below its first address, none past its bytes and none above the address space. -/
theorem memGet_loadWords_outside (bytes : List Byte) (a : Nat) (m : Memory) {c : Nat}
    (h : c < a ∨ a + bytes.length / 2 ≤ c ∨ 65535 < c) : memGet (loadWords bytes a m) c = memGet m c := by
  induction bytes, a, m using loadWords.induct with
  | case1 high low rest a m ha ih =>
    simp only [List.length_cons] at h
    rw [loadWords_cons ha, ih (by omega), memGet_memSet_ne (by omega)]
  | case2 high low rest a m ha => rw [loadWords_above ha]
  | case3 bytes a m hshort => rw [loadWords_of_no_word bytes a m hshort]

/- The bytes after the origin as words. -/

/-- The bytes of an image after its origin: whole words, high byte first, and what is left over (R267, R268). -/
def imageBody (words : List (Byte × Byte)) (odd : List Byte) : List Byte :=
  words.flatMap (fun p => [p.1, p.2]) ++ odd

theorem imageBody_cons (p : Byte × Byte) (words : List (Byte × Byte)) (odd : List Byte) :
    imageBody (p :: words) odd = p.1 :: p.2 :: imageBody words odd := rfl

theorem imageBody_length (words : List (Byte × Byte)) (odd : List Byte) :
    (imageBody words odd).length = 2 * words.length + odd.length := by
  induction words with
  | nil => exact (Nat.zero_add _).symm
  | cons p words ih => simp only [imageBody_cons, List.length_cons, ih]; omega

/-- Word `k` stands at cell `a + k`: the first is written at `a`, and the rest of the loop leaves that cell alone. -/
theorem memGet_loadWords_imageBody (words : List (Byte × Byte)) (odd : List Byte) (a : Nat) {m : Memory}
    (hm : m.wf = true) {k : Nat} (hk : k < words.length) (ha : a + k ≤ 65535) :
    memGet (loadWords (imageBody words odd) a m) (a + k) = wordOfBytes words[k].1 words[k].2 := by
  induction words generalizing a m k with
  | nil => cases hk
  | cons p words ih =>
    rw [imageBody_cons, loadWords_cons (by omega)]
    cases k with
    | zero => rw [memGet_loadWords_outside _ _ _ (by omega), Nat.add_zero, memGet_memSet_self hm]; rfl
    | succ k =>
      rw [← Nat.add_assoc, Nat.add_right_comm]
      exact ih (a + 1) (Memory.wf_memSet hm (by omega) _) (Nat.lt_of_succ_lt_succ hk) (by omega)

/- One image. -/

theorem loadImage_cons (high low : Byte) (rest : List Byte) (m : Memory) :
    loadImage (high :: low :: rest) m = loadWords rest (high.toNat * 256 + low.toNat) m := by
  rw [loadImage, wordOfBytes_toNat]

theorem loadImage_of_length_lt (image : List Byte) (m : Memory) (h : image.length < 2) : loadImage image m = m :=
  match image, h with
  | [], _ => rfl
  | [_], _ => rfl

/-- Settles O48: the image's words stand where `memGet_loadWords_imageBody` says, and an odd byte adds no word. -/
theorem loaderPlacesTheImage : Obligations.LoaderPlacesTheImage := by
  refine ⟨fun high low words odd m hm hodd => ?_, loadImage_of_length_lt⟩
  refine ⟨_, loadImage_cons high low (imageBody words odd) m, loadWords_wf _ _ hm, fun k hk ha => ?_, fun a ha => ?_⟩
  · rw [memGet_loadWords_imageBody words odd _ hm hk ha, wordOfBytes_toNat]
  · have hlen := imageBody_length words odd
    exact memGet_loadWords_outside _ _ m (by omega)

/- The boot. -/

theorem mapM_id_eq_none_of_mem {α : Type} {l : List (Option α)} (h : none ∈ l) : l.mapM id = none := by
  induction l with
  | nil => cases h
  | cons x l ih =>
    rw [List.mapM_cons]
    cases x with
    | none => rfl
    | some a => rw [ih ((List.mem_cons.mp h).resolve_left nofun)]; rfl

/-- R265, R269: when every image can be read the boot loads them all. -/
theorem boot_map_some (images : List (List Byte)) (s : State) :
    boot (images.map some) s = some (loadImages images (hostReset s)) := by
  have hread : (images.map some).mapM id = some images :=
    List.mapM_map.trans (List.mapM_pure.trans (congrArg some (List.map_id images)))
  rw [boot, hread]; rfl

/-- R270: an image that cannot be read stops the boot. -/
theorem boot_of_unreadable {images : List (Option (List Byte))} (h : none ∈ images) (s : State) :
    boot images s = none := by
  rw [boot, mapM_id_eq_none_of_mem h]; rfl

/-- Settles O47: the first clause is the definition of the reset, and the memory the images are loaded into is the empty
one of `State.reset`. -/
theorem bootResetsAndLoadsInOrder : Obligations.BootResetsAndLoadsInOrder :=
  ⟨fun _ => rfl, boot_map_some, fun _ s h => boot_of_unreadable h s⟩

end Sys2Proof.Machine
end
